-- ==== Sys2Proof/Word.lean ====
section
/-!
DEFINITION. The word types of the 68080 (10_state.md, 30_encoding.md): everything the spec treats as a
string of bits is a `BitVec` of the spec's width; bit 0 is the least significant bit (rule R10).
-/

namespace Sys2Proof

/-- A byte of memory: 8 bits (rule R63). -/
abbrev Byte := BitVec 8

/-- A word of the instruction stream or of a register: 16 bits (rules R15, R90). -/
abbrev Word := BitVec 16

/-- A long: 32 bits (rule R15). -/
abbrev Long := BitVec 32

/-- A quad: 64 bits (rule R15). -/
abbrev QWord := BitVec 64

/-- An address: 32 bits, all address arithmetic modulo `2^32` (rules R8, R12, R29, R63; log entry 2). -/
abbrev Addr := BitVec 32

end Sys2Proof
end

