-- ==== Sys2Proof/Config.lean ====
section
/-!
DEFINITION. What the spec leaves to the reader of the model: the named parameters a model takes as
arguments (00_scope.md rule R9, 92_eei_decisions.md section 1) and the source of the values it calls
`unspecified_N` (rule R12).
-/

namespace Sys2Proof

/-- `UPPER32`: what a write of 32 bits or fewer does to bits 63-32 of a register (rule R24, D7). -/
inductive Upper32 where
  | unspecified | preserve | zero
deriving DecidableEq, Repr

/-- `F610_IS`: which of the two rows that share the words `$F610-$F617` they are (rule R113, D17). -/
inductive F610Is where
  | move16 | touch | refuse
deriving DecidableEq, Repr

/-- `STOREM_BIT_ORDER`: mask bit `k` of STOREM governs the byte at `ea+7-k` or at `ea+k` (rule R298, D22). -/
inductive StoremOrder where
  | msbFirst | lsbFirst
deriving DecidableEq, Repr

/-- `FP_FRACTION_BITS`: how many fraction bits a floating-point register keeps (rules R320, R321, D46). -/
inductive FpFractionBits where
  | f52 | f44 | f32
deriving DecidableEq, Repr

/-- How many of the low fraction bits are not kept: `52 - F` (rule R321). -/
def FpFractionBits.dropped : FpFractionBits → Nat
  | .f52 => 0
  | .f44 => 8
  | .f32 => 20

/-- The named parameters of rule R9, fixed for a run. `APOLLO_BIT_AT_LAUNCH` is bit 11 of the status
register of the launch state and so no field here. -/
structure Config where
  /-- `UPPER32` -/
  upper32 : Upper32
  /-- `ADDQ_BN_SETS_CC` (D15) -/
  addqBnSetsCc : Bool
  /-- `MOVE2_OLD` (D29) -/
  move2Old : Bool
  /-- `F610_IS` (D17) -/
  f610Is : F610Is
  /-- `STOREM3_OPCODE` (D19): none, or an opcode byte no other AMMX instruction uses -/
  storem3Opcode : Option Byte
  /-- `STOREM_BIT_ORDER` (D22) -/
  storemOrder : StoremOrder
  /-- `BANK_CHECK_SS` (D11) -/
  bankCheckSs : Bool
  /-- `FP_FRACTION_BITS` (D46) -/
  fpFraction : FpFractionBits
  /-- `PCR_REVISION`: the byte MOVEC reads in bits 15-8 of PCR, 1 on a V4 core, 0 on a V2 core (R37) -/
  pcrRevision : Byte
deriving DecidableEq, Repr

/-- The defaults of 92_eei_decisions.md section 1. -/
def Config.default : Config where
  upper32 := .unspecified
  addqBnSetsCc := true
  move2Old := false
  f610Is := .refuse
  storem3Opcode := none
  storemOrder := .msbFirst
  bankCheckSs := false
  fpFraction := .f52
  pcrRevision := 1

/-- The AMMX opcode bytes the spec assigns (42_ammx_1.md, 43_ammx_2.md), TEX's `$3E` included. -/
def ammxOpcodes : List Byte :=
  [0x01, 0x02, 0x03, 0x04, 0x05, 0x06, 0x07, 0x08, 0x09, 0x0A, 0x0B, 0x0C,
   0x10, 0x11, 0x12, 0x13, 0x14, 0x15, 0x16, 0x17, 0x18, 0x19, 0x1A, 0x1B, 0x1C, 0x1D, 0x1E,
   0x20, 0x21, 0x22, 0x23, 0x24, 0x25, 0x28, 0x29, 0x2A, 0x2C, 0x2D, 0x2E, 0x2F,
   0x30, 0x31, 0x32, 0x33, 0x34, 0x35, 0x36, 0x37, 0x38, 0x39, 0x3E]

/-- `STOREM3_OPCODE` when it is "a byte value not used by any other AMMX instruction" (rule R296) and has
bits 7-6 = 00 as every opcode byte must (rule R101). -/
def Config.storem3 (cfg : Config) : Option Byte :=
  match cfg.storem3Opcode with
  | none => none
  | some op => if ammxOpcodes.contains op || 64 ≤ op.toNat then none else some op

/-- The free values: the `n`-th draw of a run. It has no body, so nothing can be proved about a value it
gives: a value of the spec written `unspecified_N` is the low `N` bits of one draw (rule R12; log entry 1). -/
opaque Config.freeBits : Nat → QWord

end Sys2Proof
end

