-- ==== Sys2Proof/Syntax.lean ====
section
/-!
DEFINITION. The instructions: one constructor for each of the 118 rows of spec/opcode_table.json, with its
operand fields pulled out of the words (30_encoding.md rules R91 to R106).
-/

namespace Sys2Proof

/-- A 3-bit register number: `D0..D7`, `A0..A7`, `B0..B7` or `FP0..FP7` as the operand says. -/
abbrev Reg3 := BitVec 3

/-- The 4-bit legacy register number `Rn4`: 0-7 `D0..D7`, 8-15 `A0..A7` (rule R26). -/
abbrev Reg4 := BitVec 4

/-- The 5-bit data-register number `R5`: 0-7 `D0..D7`, 8-31 `E0..E23` (rule R25). -/
abbrev Reg5 := BitVec 5

/-- Operand sizes: byte, word, long, quad. -/
inductive Size where
  | b | w | l | q
deriving DecidableEq, Repr

/-- The size in bytes. -/
def Size.bytes : Size → Nat
  | .b => 1
  | .w => 2
  | .l => 4
  | .q => 8

/-- Words an immediate operand of the size takes: one for a byte or word, two for a long, four for a quad
(rules R92, R96). -/
def Size.immWords : Size → Nat
  | .b => 1
  | .w => 1
  | .l => 2
  | .q => 4

/-- The brief extension word (rule R94): `da` the index is an address register, `xn` its number, `wl` its
long is used, `scale` the power of two it is multiplied by, `d8` the displacement. -/
structure Brief where
  da : Bool
  xn : Reg3
  wl : Bool
  scale : BitVec 2
  d8 : Byte
deriving DecidableEq, Repr

/-- A displacement of a full extension word: none, one word, two words (rule R95). -/
inductive FullDisp where
  | null
  | word (w : Word)
  | long (l : Long)
deriving DecidableEq, Repr

/-- The `IIS` field of a full extension word with its outer displacement (rule R95). -/
inductive Indirection where
  | none
  | pre (od : FullDisp)
  | post (od : FullDisp)
deriving DecidableEq, Repr

/-- The full extension word with its displacement words (rule R95). -/
structure Full where
  da : Bool
  xn : Reg3
  wl : Bool
  scale : BitVec 2
  /-- `BS`: base register suppressed -/
  bs : Bool
  /-- `IS`: index suppressed -/
  is : Bool
  bd : FullDisp
  iis : Indirection
deriving DecidableEq, Repr

/-- The index extension of TOUCH: brief or full (rule R212). -/
inductive IndexExt where
  | brief (e : Brief)
  | full (e : Full)
deriving DecidableEq, Repr

/-- The legacy effective address `<ea>` (rule R92). -/
inductive Ea where
  | dn (n : Reg3)
  | an (n : Reg3)
  | ind (n : Reg3)
  | postinc (n : Reg3)
  | predec (n : Reg3)
  | disp (n : Reg3) (d16 : Word)
  | index (n : Reg3) (e : Brief)
  | absW (w : Word)
  | absL (l : Long)
  | pcDisp (d16 : Word)
  | pcIndex (e : Brief)
  /-- An immediate, zero-extended to 64 bits. -/
  | imm (v : QWord)
deriving DecidableEq, Repr

/-- The base register of an AMMX memory mode: `An` when the `A` bit is 0, `Bn` when it is 1 (rule R103). -/
inductive Base where
  | a (n : Reg3)
  | b (n : Reg3)
deriving DecidableEq, Repr

/-- The AMMX vector effective address `<vea>` (rules R103, R104). -/
inductive Vea where
  | reg (k : Reg5)
  | ind (r : Base)
  | postinc (r : Base)
  | predec (r : Base)
  | disp (r : Base) (d16 : Word)
  | index (r : Base) (e : Brief)
  | absW (w : Word)
  | absL (l : Long)
  | pcDisp (d16 : Word)
  | pcIndex (e : Brief)
  | immQ (v : QWord)
  | immW (w : Word)
deriving DecidableEq, Repr

/-- Extension words of an `<ea>` whose operand has the given size (rule R92). -/
def Ea.extWords (sz : Size) : Ea → Nat
  | .dn _ | .an _ | .ind _ | .postinc _ | .predec _ => 0
  | .disp _ _ | .index _ _ | .absW _ | .pcDisp _ | .pcIndex _ => 1
  | .absL _ => 2
  | .imm _ => sz.immWords

/-- Extension words of a `<vea>` (rule R102). -/
def Vea.extWords : Vea → Nat
  | .reg _ | .ind _ | .postinc _ | .predec _ => 0
  | .disp _ _ | .index _ _ | .absW _ | .pcDisp _ | .pcIndex _ | .immW _ => 1
  | .absL _ => 2
  | .immQ _ => 4

/-- Words of a full extension's displacement (rule R95). -/
def FullDisp.words : FullDisp → Nat
  | .null => 0
  | .word _ => 1
  | .long _ => 2

/-- Words of a full extension's outer displacement (rule R95). -/
def Indirection.words : Indirection → Nat
  | .none => 0
  | .pre od => od.words
  | .post od => od.words

/-- Words of TOUCH's index extension, the extension word itself included (rules R94, R95). -/
def IndexExt.words : IndexExt → Nat
  | .brief _ => 1
  | .full e => 1 + e.bd.words + e.iis.words

/-- The fields of the BANK prefix word `0111 ccc 1 SS CC AA BB` (rule R136). -/
structure BankPrefix where
  ccc : BitVec 3
  ss : BitVec 2
  cc : BitVec 2
  aa : BitVec 2
  bb : BitVec 2
deriving DecidableEq, Repr

/-- The 5-bit number `CC : ccc` that names a third operand when it is not 0 (rule R137). -/
def BankPrefix.third (p : BankPrefix) : BitVec 5 := p.cc ++ p.ccc

/-- The floating-point operand formats the spec defines (rules R325, R327; `x` and packed are refused). -/
inductive FpFmt where
  | b | w | l | s | d
deriving DecidableEq, Repr

/-- The operand size of a format: b 1, w 2, l 4, s 4, d 8 bytes (rule R325). -/
def FpFmt.size : FpFmt → Size
  | .b => .b
  | .w => .w
  | .l => .l
  | .s => .l
  | .d => .q

/-- The rounding precision in the FMOVE opmode: `R000P00`, 00 default, 10 single, 11 double (rule R326). -/
inductive RoundPrec where
  | default | single | double
deriving DecidableEq, Repr

/-- The instructions. Where a row has two directions, `toMem` (or `toEa`) is its direction bit `d`. -/
inductive Instr where
  -- 40_integer_1.md
  | addiw (imm : Word) (ea : Ea)
  | addqBn (data : BitVec 3) (bn : Reg3)
  | bank (p : BankPrefix) (inner : Instr)
  | bhi (d8 : Byte)
  | bls (d8 : Byte)
  | bcc (d8 : Byte)
  | bcs (d8 : Byte)
  | bne (d8 : Byte)
  | beq (d8 : Byte)
  | bvc (d8 : Byte)
  | bvs (d8 : Byte)
  | bpl (d8 : Byte)
  | bmi (d8 : Byte)
  | bge (d8 : Byte)
  | blt (d8 : Byte)
  | bgt (d8 : Byte)
  | ble (d8 : Byte)
  | bra (d8 : Byte)
  | bsr (d8 : Byte)
  | clrQ (ea : Ea)
  | clrB (ea : Ea)
  | clrW (ea : Ea)
  | clrL (ea : Ea)
  | cmpBnDn (bn dn : Reg3)
  | cmpiw (imm : Word) (ea : Ea)
  | dbccL (cond : BitVec 4) (dn : Reg3) (disp : Word)
  | extub (dn : Reg3)
  | extuw (dn : Reg3)
  | leaEaBn (ea : Ea) (bn : Reg3)
  | leaBnAn (bn an : Reg3)
  -- 41_integer_2.md
  | mov3q (data : BitVec 3) (ea : Ea)
  | moveBnEa (bn : Reg3) (ea : Ea)
  | moveaEaBn (ea : Ea) (bn : Reg3)
  | moveSrEa (ea : Ea)
  | oriSr (imm : Word)
  | andiSr (imm : Word)
  | move16PiPi (ax ay : Reg3)
  | move16PiAbs (an : Reg3) (l : Long)
  | move16AbsPi (l : Long) (an : Reg3)
  | move16AnAbs (an : Reg3) (l : Long)
  | move16AbsAn (l : Long) (an : Reg3)
  | movecRcRn (rn : Reg4) (creg : BitVec 12)
  | movecRnRc (rn : Reg4) (creg : BitVec 12)
  | move2 (sz : Size) (toMem : Bool) (b c : Reg4) (ea : Ea)
  | move2Old (sz : Size) (toMem : Bool) (b : Reg4) (ea : Ea)
  | moveh (toMem : Bool) (b : Reg4) (ea : Ea)
  | movex (sz : Size) (toEa : Bool) (b : Reg4) (ea : Ea)
  | moviw (imm : Word) (ea : Ea)
  | movs (sz : Size) (ea : Ea) (dn : Reg3)
  | movz (sz : Size) (ea : Ea) (dn : Reg3)
  | movz2 (sz : Size) (b c : Reg4) (ea : Ea)
  | perm (a b : Reg4) (pos0 pos1 pos2 pos3 : BitVec 3)
  | subqBn (data : BitVec 3) (bn : Reg3)
  | touchIndex (an : Reg3) (ext : IndexExt)
  | touchAn (an : Reg3)
  -- 42_ammx_1.md
  | bflyb (vea : Vea) (b d : Reg5)
  | bflyw (vea : Vea) (b d : Reg5)
  | bsel (vea : Vea) (b d : Reg5)
  | c2p (vea : Vea) (d : Reg5)
  | load (vea : Vea) (d : Reg5)
  | loadi (vea : Vea) (d : Reg5)
  | lslq (vea : Vea) (b d : Reg5)
  | lsrq (vea : Vea) (b d : Reg5)
  /-- `grp` is `A : aa`; the sources are `R5[grp:00]` and the three after it (rule R105, class R4). -/
  | minterm (grp : BitVec 3) (d : Reg5)
  | pack3216 (b d : Reg5) (vea : Vea)
  | packuswb (b d : Reg5) (vea : Vea)
  | paddb (vea : Vea) (b d : Reg5)
  | paddw (vea : Vea) (b d : Reg5)
  | paddusb (vea : Vea) (b d : Reg5)
  | paddusw (vea : Vea) (b d : Reg5)
  | pand (vea : Vea) (b d : Reg5)
  | pandn (vea : Vea) (b d : Reg5)
  | pavgb (vea : Vea) (b d : Reg5)
  | pcmpeqb (vea : Vea) (b d : Reg5)
  | pcmphib (vea : Vea) (b d : Reg5)
  | pcmpgeb (vea : Vea) (b d : Reg5)
  | pcmpgtb (vea : Vea) (b d : Reg5)
  | pcmpeqw (vea : Vea) (b d : Reg5)
  | pcmphiw (vea : Vea) (b d : Reg5)
  | pcmpgew (vea : Vea) (b d : Reg5)
  | pcmpgtw (vea : Vea) (b d : Reg5)
  | peor (vea : Vea) (b d : Reg5)
  -- 43_ammx_2.md
  | pmaxsb (vea : Vea) (b d : Reg5)
  | pmaxub (vea : Vea) (b d : Reg5)
  | pmaxsw (vea : Vea) (b d : Reg5)
  | pmaxuw (vea : Vea) (b d : Reg5)
  | pminsb (vea : Vea) (b d : Reg5)
  | pminub (vea : Vea) (b d : Reg5)
  | pminsw (vea : Vea) (b d : Reg5)
  | pminuw (vea : Vea) (b d : Reg5)
  | pmul88 (vea : Vea) (b d : Reg5)
  | pmulh (vea : Vea) (b d : Reg5)
  | pmull (vea : Vea) (b d : Reg5)
  | pmula (vea : Vea) (b d : Reg5)
  | por (vea : Vea) (b d : Reg5)
  | psubb (vea : Vea) (b d : Reg5)
  | psubw (vea : Vea) (b d : Reg5)
  | psubusb (vea : Vea) (b d : Reg5)
  | psubusw (vea : Vea) (b d : Reg5)
  | store (b : Reg5) (vea : Vea)
  | storec (b d : Reg5) (vea : Vea)
  | storei (b : Reg5) (vea : Vea)
  | storeilm (b d : Reg5) (vea : Vea)
  | storem (b d : Reg5) (vea : Vea)
  /-- `xx` are bits 11 and 10 of word 2, which the source says are ignored (rules R106, R299). -/
  | storem3 (b : Reg5) (mode xx : BitVec 2) (vea : Vea)
  /-- The `S` and `TTT` groups of word 3 as printed (rule R300). -/
  | tex (an au av : Reg3) (d : BitVec 4) (s1 : BitVec 2) (s2 : Bool) (ttt : BitVec 3) (s3 : BitVec 2)
  | texB (an au av : Reg3) (d dm : BitVec 4)
  | transhi (grp : BitVec 3) (d : Reg5)
  | translo (grp : BitVec 3) (d : Reg5)
  | unpack1632 (vea : Vea) (d : Reg5)
  /-- `sel` is words 3 and 4: `pos0` in bits 31-28 down to `pos7` in bits 3-0. -/
  | vperm (a b d : Reg5) (sel : Long)
  -- 44_float.md
  | fdbccL (pred : BitVec 6) (dn : Reg3) (disp : Word)
  | fmoveEaFp (fmt : FpFmt) (rp : RoundPrec) (ea : Ea) (fp : Reg3)
  | fmoveFpEa (fmt : FpFmt) (fp : Reg3) (ea : Ea)
  | fmoverz (fmt : FpFmt) (fp : Reg3) (ea : Ea)
  | fmoveurz (fmt : FpFmt) (fp : Reg3) (ea : Ea)
  /-- The BANK bundle around FMOVE Dn,FPn (rule R328). -/
  | floadi (p : BankPrefix) (fmt : FpFmt) (rp : RoundPrec) (dn fp : Reg3)
  /-- The BANK bundle around FMOVE FPn,Dn (rule R328). -/
  | fstorei (p : BankPrefix) (fmt : FpFmt) (fp dn : Reg3)
deriving DecidableEq, Repr

end Sys2Proof
end

