-- ==== Sys2Proof/WellFormed.lean ====
section
/-!
DEFINITION. Which instruction terms the spec gives a meaning: the operand forms of 30_encoding.md rule R93,
the size codes of rule R112, the register restrictions of the instruction pages, the bundles of
40_integer_1.md rule R140. `Instr.complaint` names why a term is refused; `Instr.wellFormed` is that there is
no such reason.
-/

namespace Sys2Proof

/-- Why a sequence of instruction words, or the instruction decoded from it, is refused. -/
inductive Reject where
  /-- No row of the opcode table matches: a legacy instruction or an unassigned pattern (rules R111, R340). -/
  | noRow
  /-- The program text ends inside the instruction. -/
  | truncated
  /-- An unassigned Line-A word; the step raises `LineA` for it (rules R108, R353). -/
  | lineAUnassigned
  /-- A size code the instruction does not list (rules R110, R112; D36). -/
  | sizeField
  /-- A field that must be zero is not (rules R106, R111). -/
  | reservedField
  /-- Word 2 bits 7-6 of an AMMX instruction are not 00 (rule R101; D41). -/
  | ammxM
  /-- A `<vea>` the table leaves blank or does not hold (rule R103; D34). -/
  | veaUnassigned
  /-- An `<ea>` of mode 111, register 101 to 111 (rule R92). -/
  | eaUnassigned
  /-- A full extension word outside TOUCH, or one with a reserved field (rule R95; D34). -/
  | fullExtension
  /-- `$F610-$F617` while `F610_IS` is `refuse` (rule R113; D17; 90_conflicts.md C3). -/
  | conflicted
  /-- Format x, packed, or unassigned (rules R325, R327). -/
  | fpFormat
  /-- An FMOVE opmode that is not FMOVE's (rule R326). -/
  | fpOpmode
  /-- A TEX word 3 of neither printed form (rules R300, R301). -/
  | texForm
  /-- An operand form the instruction does not admit (rules R93, R104; D30, D34, D44). -/
  | operandForm
  /-- A register pair that does not start at an even register (rules R222, R196). -/
  | pairOdd
  /-- MOVE2 or MOVZ2 loading one register twice (rules R195, R205; D30). -/
  | sameRegister
  /-- A byte or word datum with an address register (rules R195, R199; D30). -/
  | partialAddress
  /-- A bundle that is not admitted (rule R140; D11). -/
  | bundle
  /-- A third operand (rules R137, R140; 90_conflicts.md C14). -/
  | thirdOperand
  /-- A nonzero `AA` or `BB` on an operand that is not register-direct (rules R138, R140). -/
  | bankedAddressMode
  /-- `BANK_CHECK_SS` is true and `SS` is not the bundle's length code (rule R136). -/
  | bundleLength
  /-- `STOREM3` without `STOREM3_OPCODE`, or the reading of MOVE2 that `MOVE2_OLD` does not choose
  (rules R296, R196). -/
  | parameter
deriving DecidableEq, Repr

/-- Memory modes that are admitted wherever memory is: 010-110, 111/000, 111/001 ("mem" of rule R93). -/
def Ea.isMem : Ea → Bool
  | .ind _ | .postinc _ | .predec _ | .disp _ _ | .index _ _ | .absW _ | .absL _ => true
  | _ => false

/-- The pc-relative modes ("pc" of rule R93). -/
def Ea.isPc : Ea → Bool
  | .pcDisp _ | .pcIndex _ => true
  | _ => false

/-- Modes 010, 101, 110, 111/000, 111/001: an address with no side effect (LEA, MOVE2, MOVZ2, MOVEH). -/
def Ea.isControl : Ea → Bool
  | .ind _ | .disp _ _ | .index _ _ | .absW _ | .absL _ => true
  | _ => false

def Ea.isDn : Ea → Bool
  | .dn _ => true
  | _ => false

def Ea.isAn : Ea → Bool
  | .an _ => true
  | _ => false

def Ea.isImm : Ea → Bool
  | .imm _ => true
  | _ => false

/-- An immediate is a value of its operand's size (rule R96). -/
def Ea.immFits (sz : Size) : Ea → Bool
  | .imm v => v.toNat < 2 ^ (8 * sz.bytes)
  | _ => true

/-- The rows of the table of rule R93. -/
inductive EaClass where
  /-- Dn and mem: ADDIW, CLR, MOVIW, MOV3Q, MOVE Bn, MOVE SR, FMOVE/FMOVERZ/FMOVEURZ to `<ea>`. -/
  | alter
  /-- Dn, mem and pc: CMPIW. -/
  | compare
  /-- everything: MOVEA. -/
  | any
  /-- Dn, mem, pc, immediate: MOVS, MOVZ, FMOVE from `<ea>`. -/
  | source
  /-- the control modes and pc: LEA, and MOVE2, MOVZ2, MOVEH reading. -/
  | controlRead
  /-- the control modes: MOVE2 and MOVEH writing. -/
  | controlWrite
  /-- Dn, An, mem and pc: MOVEX reading. -/
  | swapRead
  /-- Dn, An and mem: MOVEX writing. -/
  | swapWrite
deriving DecidableEq, Repr

/-- The table of rule R93. -/
def EaClass.allows (c : EaClass) (ea : Ea) : Bool :=
  match c with
  | .alter => ea.isDn || ea.isMem
  | .compare => ea.isDn || ea.isMem || ea.isPc
  | .any => true
  | .source => ea.isDn || ea.isMem || ea.isPc || ea.isImm
  | .controlRead => ea.isControl || ea.isPc
  | .controlWrite => ea.isControl
  | .swapRead => ea.isDn || ea.isAn || ea.isMem || ea.isPc
  | .swapWrite => ea.isDn || ea.isAn || ea.isMem

/-- The first of two complaints. -/
def firstComplaint (a b : Option Reject) : Option Reject :=
  match a with
  | some r => some r
  | none => b

/-- A complaint when the condition fails. -/
def need (ok : Bool) (r : Reject) : Option Reject := if ok then none else some r

/-- The `<ea>` is in its class and an immediate fits. -/
def eaComplaint (c : EaClass) (sz : Size) (ea : Ea) : Option Reject :=
  need (c.allows ea && ea.immFits sz) .operandForm

/-- A `<vea>` that no instruction writes: an immediate (rule R104; D44), or a pc-relative one, which is refused as
a destination everywhere (rules R93, R386; D34, U4 of 93_implementation_defined.md). -/
def Vea.readOnly : Vea → Bool
  | .immQ _ | .immW _ | .pcDisp _ | .pcIndex _ => true
  | _ => false

/-- A `<vea>` that is a destination can be written. -/
def veaDestComplaint (vea : Vea) : Option Reject := need (!vea.readOnly) .operandForm

/-- `Rn4` numbers 8 to 15 are address registers (rule R26). -/
def Reg4.isAddr (r : Reg4) : Bool := 8 ≤ r.toNat

/-- The first register of a pair or group has an even number (rules R222, R196). -/
def pairComplaint (d : Reg5) : Option Reject := need (d.toNat % 2 == 0) .pairOdd

/-- MOVE2's restrictions (rule R195; D30): byte, word or long; no address register below long size; two
different registers when loading. -/
def move2Complaint (sz : Size) (toMem : Bool) (b c : Reg4) (ea : Ea) : Option Reject :=
  firstComplaint (need (sz != .q) .sizeField) <|
  firstComplaint (eaComplaint (if toMem then .controlWrite else .controlRead) sz ea) <|
  firstComplaint (need (sz == .l || !(Reg4.isAddr b || Reg4.isAddr c)) .partialAddress)
    (need (toMem || b != c) .sameRegister)

/-- How a prefix with `AA` and `BB` may extend the one data-register operand of its instruction
(rules R138, R140): both fields equal; nonzero only when the operand is register-direct. -/
def singleBankComplaint (p : BankPrefix) (direct : Bool) : Option Reject :=
  firstComplaint (need (p.aa == p.bb) .bundle)
    (need (direct || (p.aa == 0 && p.bb == 0)) .bankedAddressMode)

/-- One of the two fields extends the operand; the other is 00 or equal to it (rule R140: MOVE.L Bn,Dn,
MOVEA.L Dn,Bn). -/
def oneSideBankComplaint (used other : BitVec 2) (direct : Bool) : Option Reject :=
  firstComplaint (need (other == 0 || other == used) .bundle)
    (need (direct || (used == 0 && other == 0)) .bankedAddressMode)

/-- Which bundles are admitted: the prefix fields against the inner instruction (rules R137, R138, R140). FMOVE
with a data register is written `floadi` or `fstorei`, so under `bank` it stands only with a memory or
immediate operand, which no field extends. -/
def bankFieldComplaint (p : BankPrefix) : Instr → Option Reject
  | .moviw _ ea => singleBankComplaint p ea.isDn
  | .clrB ea => singleBankComplaint p ea.isDn
  | .clrW ea => singleBankComplaint p ea.isDn
  | .clrL ea => singleBankComplaint p ea.isDn
  | .extub _ => singleBankComplaint p true
  | .extuw _ => singleBankComplaint p true
  | .perm _ _ _ _ _ _ => none
  | .moveBnEa _ ea => oneSideBankComplaint p.bb p.aa ea.isDn
  | .moveaEaBn ea _ => oneSideBankComplaint p.aa p.bb ea.isDn
  | .fmoveEaFp _ _ ea _ =>
    firstComplaint (need (!ea.isDn) .bundle) (need (p.aa == 0 && p.bb == 0) .bankedAddressMode)
  | .fmoveFpEa _ _ ea =>
    firstComplaint (need (!ea.isDn) .bundle) (need (p.aa == 0 && p.bb == 0) .bankedAddressMode)
  | .fmoverz _ _ ea => need (ea.isDn || (p.aa == 0 && p.bb == 0)) .bankedAddressMode
  | .fmoveurz _ _ ea => need (ea.isDn || (p.aa == 0 && p.bb == 0)) .bankedAddressMode
  | _ => some .bundle

/-- Words of an admitted inner instruction, for `BANK_CHECK_SS` (rule R136). -/
def innerWords : Instr → Nat
  | .moviw _ ea => 2 + ea.extWords .l
  | .clrB ea => 1 + ea.extWords .b
  | .clrW ea => 1 + ea.extWords .w
  | .clrL ea => 1 + ea.extWords .l
  | .perm _ _ _ _ _ _ => 2
  | .moveBnEa _ ea => 1 + ea.extWords .l
  | .moveaEaBn ea _ => 1 + ea.extWords .l
  | .fmoveEaFp fmt _ ea _ => 2 + ea.extWords fmt.size
  | .fmoveFpEa fmt _ ea => 2 + ea.extWords fmt.size
  | .fmoverz fmt _ ea => 2 + ea.extWords fmt.size
  | .fmoveurz fmt _ ea => 2 + ea.extWords fmt.size
  | _ => 1

/-- The prefix alone: no third operand; `SS` is the length code when `BANK_CHECK_SS` asks (rules R136, R137). -/
def prefixComplaint (cfg : Config) (p : BankPrefix) (words : Nat) : Option Reject :=
  firstComplaint (need (p.third == 0) .thirdOperand)
    (need (!cfg.bankCheckSs || 1 + words == 2 + p.ss.toNat) .bundleLength)

/-- The integer formats FMOVERZ and FMOVEURZ take (rules R329, R330). -/
def intFmtComplaint (fmt : FpFmt) : Option Reject :=
  need (fmt == .b || fmt == .w || fmt == .l) .fpFormat

/-- Why the instruction is refused, if it is. -/
def Instr.complaint (cfg : Config) : Instr → Option Reject
  | .addiw _ ea => eaComplaint .alter .l ea
  | .bank p inner =>
    firstComplaint (prefixComplaint cfg p (innerWords inner)) <|
    firstComplaint (bankFieldComplaint p inner) (inner.complaint cfg)
  | .clrQ ea => eaComplaint .alter .q ea
  | .clrB ea => eaComplaint .alter .b ea
  | .clrW ea => eaComplaint .alter .w ea
  | .clrL ea => eaComplaint .alter .l ea
  | .cmpiw _ ea => eaComplaint .compare .l ea
  | .dbccL _ _ disp => need (disp.getLsbD 0) .noRow
  | .leaEaBn ea _ => eaComplaint .controlRead .l ea
  | .mov3q _ ea => eaComplaint .alter .l ea
  | .moveBnEa _ ea => eaComplaint .alter .l ea
  | .moveaEaBn ea _ => eaComplaint .any .l ea
  | .moveSrEa ea => eaComplaint .alter .w ea
  | .move16AnAbs _ _ => need (cfg.f610Is == .move16) .conflicted
  | .move2 sz toMem b c ea =>
    firstComplaint (need (!(cfg.move2Old && c == 0)) .parameter) (move2Complaint sz toMem b c ea)
  | .move2Old sz toMem b ea =>
    firstComplaint (need cfg.move2Old .parameter) <|
    firstComplaint (need (sz != .q) .sizeField) <|
    firstComplaint (eaComplaint (if toMem then .controlWrite else .controlRead) sz ea)
      (need (b.toNat % 2 == 0) .pairOdd)
  | .moveh toMem _ ea => eaComplaint (if toMem then .controlWrite else .controlRead) .w ea
  | .movex sz toEa b ea =>
    firstComplaint (need (sz == .w || sz == .l) .sizeField) <|
    firstComplaint (eaComplaint (if toEa then .swapWrite else .swapRead) sz ea)
      (need (sz == .l || !(if toEa then ea.isAn else Reg4.isAddr b)) .partialAddress)
  | .moviw _ ea => eaComplaint .alter .l ea
  | .movs sz ea _ =>
    firstComplaint (need (sz == .b || sz == .w) .sizeField) (eaComplaint .source sz ea)
  | .movz sz ea _ =>
    firstComplaint (need (sz == .b || sz == .w) .sizeField) (eaComplaint .source sz ea)
  | .movz2 sz b c ea =>
    firstComplaint (need (sz == .b || sz == .w) .sizeField) <|
    firstComplaint (eaComplaint .controlRead sz ea) (need (b != c) .sameRegister)
  | .touchAn _ => need (cfg.f610Is == .touch) .conflicted
  | .bflyb _ _ d => pairComplaint d
  | .bflyw _ _ d => pairComplaint d
  | .pack3216 _ _ vea => veaDestComplaint vea
  | .packuswb _ _ vea => veaDestComplaint vea
  | .store _ vea => veaDestComplaint vea
  | .storec _ _ vea => veaDestComplaint vea
  | .storei _ vea => veaDestComplaint vea
  | .storeilm _ _ vea => veaDestComplaint vea
  | .storem _ _ vea => veaDestComplaint vea
  | .storem3 _ _ _ vea => firstComplaint (need cfg.storem3.isSome .parameter) (veaDestComplaint vea)
  | .transhi _ d => pairComplaint d
  | .translo _ d => pairComplaint d
  | .unpack1632 _ d => pairComplaint d
  | .fdbccL _ _ disp => need (disp.getLsbD 0) .noRow
  | .fmoveEaFp fmt _ ea _ => eaComplaint .source fmt.size ea
  | .fmoveFpEa fmt _ ea => eaComplaint .alter fmt.size ea
  | .fmoverz fmt _ ea => firstComplaint (intFmtComplaint fmt) (eaComplaint .alter fmt.size ea)
  | .fmoveurz fmt _ ea => firstComplaint (intFmtComplaint fmt) (eaComplaint .alter fmt.size ea)
  | .floadi p _ _ _ _ => prefixComplaint cfg p 2
  | .fstorei p _ _ _ => prefixComplaint cfg p 2
  | .addqBn _ _ | .bhi _ | .bls _ | .bcc _ | .bcs _ | .bne _ | .beq _ | .bvc _ | .bvs _ | .bpl _ | .bmi _
  | .bge _ | .blt _ | .bgt _ | .ble _ | .bra _ | .bsr _ | .cmpBnDn _ _ | .extub _ | .extuw _ | .leaBnAn _ _
  | .oriSr _ | .andiSr _ | .move16PiPi _ _ | .move16PiAbs _ _ | .move16AbsPi _ _ | .move16AbsAn _ _
  | .movecRcRn _ _ | .movecRnRc _ _ | .perm _ _ _ _ _ _ | .subqBn _ _ | .touchIndex _ _
  | .bsel _ _ _ | .c2p _ _ | .load _ _ | .loadi _ _ | .lslq _ _ _ | .lsrq _ _ _ | .minterm _ _
  | .paddb _ _ _ | .paddw _ _ _ | .paddusb _ _ _ | .paddusw _ _ _ | .pand _ _ _ | .pandn _ _ _ | .pavgb _ _ _
  | .pcmpeqb _ _ _ | .pcmphib _ _ _ | .pcmpgeb _ _ _ | .pcmpgtb _ _ _ | .pcmpeqw _ _ _ | .pcmphiw _ _ _
  | .pcmpgew _ _ _ | .pcmpgtw _ _ _ | .peor _ _ _ | .pmaxsb _ _ _ | .pmaxub _ _ _ | .pmaxsw _ _ _
  | .pmaxuw _ _ _ | .pminsb _ _ _ | .pminub _ _ _ | .pminsw _ _ _ | .pminuw _ _ _ | .pmul88 _ _ _
  | .pmulh _ _ _ | .pmull _ _ _ | .pmula _ _ _ | .por _ _ _ | .psubb _ _ _ | .psubw _ _ _ | .psubusb _ _ _
  | .psubusw _ _ _ | .tex _ _ _ _ _ _ _ _ | .texB _ _ _ _ _ | .vperm _ _ _ _ => none

/-- The instruction is one the spec gives a meaning, in a form it admits. -/
def Instr.wellFormed (cfg : Config) (i : Instr) : Bool := (i.complaint cfg).isNone

end Sys2Proof
end

