-- ==== Sys2Proof/Decode.lean ====
section
/-!
DEFINITION. The decoder, total on any words and rejecting by name, and after it the encoder, both written
from the formats of 30_encoding.md (rules R90 to R114). The decoder reads the bits; which operand forms an
instruction admits is `formRefusal`, asked by the step before the instruction runs.
-/

namespace Sys2Proof

/-- What the decoder answers: an instruction and the words after it, or the reason there is none. -/
inductive Decoded where
  | ok (i : Instr) (rest : List Word)
  | reject (r : Reject)
deriving DecidableEq, Repr

namespace Decode

/-- Bits `lo+n-1` to `lo` of a word (rule R10). -/
abbrev bits (w : Word) (lo n : Nat) : BitVec n := w.extractLsb' lo n

/-- Bit `i` of a word. -/
abbrev bit (w : Word) (i : Nat) : Bool := w.getLsbD i

/-- The next word, or a truncated instruction. -/
def withWord (ws : List Word) (k : Word → List Word → Decoded) : Decoded :=
  match ws with
  | [] => .reject .truncated
  | w :: rest => k w rest

/-- The next two words as a long, most significant word first (rules R61, R96). -/
def withLong (ws : List Word) (k : Long → List Word → Decoded) : Decoded :=
  withWord ws fun hi ws => withWord ws fun lo ws => k (hi ++ lo) ws

/-- The next four words as a quad (rules R92, R104). -/
def withQuad (ws : List Word) (k : QWord → List Word → Decoded) : Decoded :=
  withLong ws fun hi ws => withLong ws fun lo ws => k (hi ++ lo) ws

/-- The fields of a brief extension word (rule R94). -/
def briefOf (w : Word) : Brief where
  da := bit w 15
  xn := bits w 12 3
  wl := bit w 11
  scale := bits w 9 2
  d8 := bits w 0 8

/-- A brief extension word; one with bit 8 = 1 is the full format, refused outside TOUCH (rule R95). -/
def withBrief (ws : List Word) (k : Brief → List Word → Decoded) : Decoded :=
  withWord ws fun w ws => if bit w 8 then .reject .fullExtension else k (briefOf w) ws

/-- A base displacement: `BDsize` 01 none, 10 word, 11 long, 00 reserved (rule R95). -/
def withBaseDisp (sz : BitVec 2) (ws : List Word) (k : FullDisp → List Word → Decoded) : Decoded :=
  if sz = 1#2 then k .null ws
  else if sz = 2#2 then withWord ws fun w ws => k (.word w) ws
  else if sz = 3#2 then withLong ws fun l ws => k (.long l) ws
  else .reject .fullExtension

/-- The `IIS` field with its outer displacement (rule R95): 000 none, 001-011 pre-indexed, 101-111
post-indexed, 100 reserved; the low two bits size the displacement. -/
def withOuter (iis : BitVec 3) (ws : List Word) (k : Indirection → List Word → Decoded) : Decoded :=
  if iis = 0#3 then k .none ws
  else if iis = 4#3 then .reject .fullExtension
  else withBaseDisp (iis.extractLsb' 0 2) ws fun od ws =>
    k (if iis.getLsbD 2 then .post od else .pre od) ws

/-- TOUCH's index extension, brief or full (rules R94, R95, R212). -/
def withIndexExt (ws : List Word) (k : IndexExt → List Word → Decoded) : Decoded :=
  withWord ws fun w ws =>
    if bit w 8 then
      if bit w 3 then .reject .fullExtension
      else withBaseDisp (bits w 4 2) ws fun bd ws => withOuter (bits w 0 3) ws fun iis ws =>
        k (.full { da := bit w 15, xn := bits w 12 3, wl := bit w 11, scale := bits w 9 2, bs := bit w 7,
                   is := bit w 6, bd := bd, iis := iis }) ws
    else k (.brief (briefOf w)) ws

/-- Mode 111 of `<ea>` (rule R92); an immediate takes the words of its size, a byte the low half of one. -/
def withEa7 (sz : Size) (reg : Reg3) (ws : List Word) (k : Ea → List Word → Decoded) : Decoded :=
  if reg = 0#3 then withWord ws fun w ws => k (.absW w) ws
  else if reg = 1#3 then withLong ws fun l ws => k (.absL l) ws
  else if reg = 2#3 then withWord ws fun w ws => k (.pcDisp w) ws
  else if reg = 3#3 then withBrief ws fun e ws => k (.pcIndex e) ws
  else if reg = 4#3 then
    match sz with
    | .b => withWord ws fun w ws => k (.imm ((bits w 0 8).setWidth 64)) ws
    | .w => withWord ws fun w ws => k (.imm (w.setWidth 64)) ws
    | .l => withLong ws fun l ws => k (.imm (l.setWidth 64)) ws
    | .q => withQuad ws fun q ws => k (.imm q) ws
  else .reject .eaUnassigned

/-- The legacy effective address (rule R92). -/
def withEa (sz : Size) (mode reg : Reg3) (ws : List Word) (k : Ea → List Word → Decoded) : Decoded :=
  if mode = 0#3 then k (.dn reg) ws
  else if mode = 1#3 then k (.an reg) ws
  else if mode = 2#3 then k (.ind reg) ws
  else if mode = 3#3 then k (.postinc reg) ws
  else if mode = 4#3 then k (.predec reg) ws
  else if mode = 5#3 then withWord ws fun w ws => k (.disp reg w) ws
  else if mode = 6#3 then withBrief ws fun e ws => k (.index reg e) ws
  else withEa7 sz reg ws k

/-- The base register of a `<vea>` memory mode (rule R103). -/
def baseOf (a : Bool) (reg : Reg3) : Base := if a then .b reg else .a reg

/-- Mode 111 of `<vea>`; the rows the table leaves blank under `A = 1` are refused (rules R103, R104). -/
def withVea7 (a : Bool) (reg : Reg3) (ws : List Word) (k : Vea → List Word → Decoded) : Decoded :=
  if reg = 4#3 then
    if a then withWord ws fun w ws => k (.immW w) ws else withQuad ws fun q ws => k (.immQ q) ws
  else if a then .reject .veaUnassigned
  else if reg = 0#3 then withWord ws fun w ws => k (.absW w) ws
  else if reg = 1#3 then withLong ws fun l ws => k (.absL l) ws
  else if reg = 2#3 then withWord ws fun w ws => k (.pcDisp w) ws
  else if reg = 3#3 then withBrief ws fun e ws => k (.pcIndex e) ws
  else .reject .veaUnassigned

/-- The vector effective address (rule R103): in the register modes `k = A : mode[0] : reg`. -/
def withVea (a : Bool) (mode reg : Reg3) (ws : List Word) (k : Vea → List Word → Decoded) : Decoded :=
  if mode = 0#3 ∨ mode = 1#3 then k (.reg (BitVec.ofBool a ++ mode.extractLsb' 0 1 ++ reg)) ws
  else if mode = 2#3 then k (.ind (baseOf a reg)) ws
  else if mode = 3#3 then k (.postinc (baseOf a reg)) ws
  else if mode = 4#3 then k (.predec (baseOf a reg)) ws
  else if mode = 5#3 then withWord ws fun w ws => k (.disp (baseOf a reg) w) ws
  else if mode = 6#3 then withBrief ws fun e ws => k (.index (baseOf a reg) e) ws
  else withVea7 a reg ws k

/-- The `<ea>` in bits 5-0 of a word. -/
abbrev withEaOf (sz : Size) (w : Word) (ws : List Word) (k : Ea → List Word → Decoded) : Decoded :=
  withEa sz (bits w 3 3) (bits w 0 3) ws k

/-- The size code 0 byte, 1 word, 2 long (rules R112, R195); 3 is never valid. -/
def withSize (ss : BitVec 2) (k : Size → Decoded) : Decoded :=
  if ss = 0#2 then k .b else if ss = 1#2 then k .w else if ss = 2#2 then k .l else .reject .sizeField

/-- Line 0000: ORI/ANDI to SR, ADDIW, and the `$0Exx` group told apart by word 2 (rules R107, R110). -/
def ext0E (cfg : Config) (w : Word) (ws : List Word) : Decoded :=
  withWord ws fun w2 ws =>
    let b := bits w2 12 4
    let dir := bit w2 11
    if bits w2 0 11 = 0x010#11 then
      withSize (bits w 6 2) fun sz => withEaOf sz w ws fun ea ws => .ok (.movex sz dir b ea) ws
    else if bits w2 0 11 = 0x013#11 then
      if bits w 6 2 = 1#2 then withEaOf .w w ws fun ea ws => .ok (.moveh dir b ea) ws
      else .reject .sizeField
    else if bit w2 10 then .reject .noRow
    else if bits w2 0 6 = 0x11#6 then
      withSize (bits w 6 2) fun sz => withEaOf sz w ws fun ea ws =>
        if cfg.move2Old ∧ bits w2 6 4 = 0#4 then .ok (.move2Old sz dir b ea) ws
        else .ok (.move2 sz dir b (bits w2 6 4) ea) ws
    else if bits w2 0 6 = 0x12#6 ∧ dir = false then
      withSize (bits w 6 2) fun sz => withEaOf sz w ws fun ea ws => .ok (.movz2 sz b (bits w2 6 4) ea) ws
    else .reject .noRow

def line0 (cfg : Config) (w : Word) (ws : List Word) : Decoded :=
  if w = 0x007C#16 then withWord ws fun imm ws => .ok (.oriSr imm) ws
  else if w = 0x027C#16 then withWord ws fun imm ws => .ok (.andiSr imm) ws
  else if bits w 6 10 = 0x01B#10 then
    withWord ws fun imm ws => withEaOf .l w ws fun ea ws => .ok (.addiw imm ea) ws
  else if bits w 8 8 = 0x0E#8 then ext0E cfg w ws
  else .reject .noRow

/-- Line 0001: MOVEA.L `<ea>`,Bn and MOVE.L Bn,`<ea>`; the words both match are MOVEA's (rule R113). -/
def line1 (w : Word) (ws : List Word) : Decoded :=
  if bits w 6 3 = 1#3 then withEaOf .l w ws fun ea ws => .ok (.moveaEaBn ea (bits w 9 3)) ws
  else if bits w 3 3 = 1#3 then
    withEa .l (bits w 6 3) (bits w 9 3) ws fun ea ws => .ok (.moveBnEa (bits w 0 3) ea) ws
  else .reject .noRow

/-- CLR.B, CLR.W, CLR.L; the size code 11 is another instruction's (rule R147). -/
def clr (w : Word) (ws : List Word) : Decoded :=
  if bits w 6 2 = 0#2 then withEaOf .b w ws fun ea ws => .ok (.clrB ea) ws
  else if bits w 6 2 = 1#2 then withEaOf .w w ws fun ea ws => .ok (.clrW ea) ws
  else if bits w 6 2 = 2#2 then withEaOf .l w ws fun ea ws => .ok (.clrL ea) ws
  else .reject .noRow

def line4 (w : Word) (ws : List Word) : Decoded :=
  if bits w 6 10 = 0x103#10 then withEaOf .w w ws fun ea ws => .ok (.moveSrEa ea) ws
  else if bits w 8 8 = 0x42#8 then clr w ws
  else if bits w 3 13 = 0x978#13 then .ok (.extub (bits w 0 3)) ws
  else if bits w 3 13 = 0x9B8#13 then .ok (.extuw (bits w 0 3)) ws
  else if bits w 4 12 = 0x4CC#12 then
    withWord ws fun w2 ws =>
      .ok (.perm (bits w 0 4) (bits w2 12 4) (bits w2 9 3) (bits w2 6 3) (bits w2 3 3) (bits w2 0 3)) ws
  else if bits w 6 10 = 0x138#10 then
    withWord ws fun imm ws => withEaOf .l w ws fun ea ws => .ok (.cmpiw imm ea) ws
  else if w = 0x4E7A#16 then withWord ws fun w2 ws => .ok (.movecRcRn (bits w2 12 4) (bits w2 0 12)) ws
  else if w = 0x4E7B#16 then withWord ws fun w2 ws => .ok (.movecRnRc (bits w2 12 4) (bits w2 0 12)) ws
  else if bits w 6 3 = 5#3 then withEaOf .l w ws fun ea ws => .ok (.leaEaBn ea (bits w 9 3)) ws
  else if bits w 3 6 = 0x39#6 then .ok (.leaBnAn (bits w 0 3) (bits w 9 3)) ws
  else .reject .noRow

/-- Line 0101: ADDQ/SUBQ Bn and DBcc.L, whose displacement has bit 0 = 1 (rules R132, R150, R210). -/
def line5 (w : Word) (ws : List Word) : Decoded :=
  if bits w 3 6 = 0x01#6 then .ok (.addqBn (bits w 9 3) (bits w 0 3)) ws
  else if bits w 3 6 = 0x21#6 then .ok (.subqBn (bits w 9 3) (bits w 0 3)) ws
  else if bits w 3 5 = 0x19#5 then
    withWord ws fun w2 ws =>
      if bit w2 0 then .ok (.dbccL (bits w 8 4) (bits w 0 3) w2) ws else .reject .noRow
  else .reject .noRow

/-- The sixteen words of line 0110: conditions 0000 and 0001 are BRA and BSR (rules R34, R142). -/
def branch (cond : BitVec 4) (d8 : Byte) : Instr :=
  match cond with
  | 0x0#4 => .bra d8
  | 0x1#4 => .bsr d8
  | 0x2#4 => .bhi d8
  | 0x3#4 => .bls d8
  | 0x4#4 => .bcc d8
  | 0x5#4 => .bcs d8
  | 0x6#4 => .bne d8
  | 0x7#4 => .beq d8
  | 0x8#4 => .bvc d8
  | 0x9#4 => .bvs d8
  | 0xA#4 => .bpl d8
  | 0xB#4 => .bmi d8
  | 0xC#4 => .bge d8
  | 0xD#4 => .blt d8
  | 0xE#4 => .bgt d8
  | _ => .ble d8

/-- Line 1010 (rule R108); every word of it that no pattern matches is unassigned. -/
def lineA (w : Word) (ws : List Word) : Decoded :=
  if bits w 6 10 = 0x288#10 then
    withWord ws fun imm ws => withEaOf .l w ws fun ea ws => .ok (.moviw imm ea) ws
  else if bits w 6 10 = 0x2B8#10 then withEaOf .q w ws fun ea ws => .ok (.clrQ ea) ws
  else if bits w 6 3 = 1#3 then withEaOf .l w ws fun ea ws => .ok (.mov3q (bits w 9 3) ea) ws
  else if bits w 6 3 = 4#3 then withEaOf .b w ws fun ea ws => .ok (.movs .b ea (bits w 9 3)) ws
  else if bits w 6 3 = 5#3 then withEaOf .w w ws fun ea ws => .ok (.movs .w ea (bits w 9 3)) ws
  else if bits w 6 3 = 6#3 then withEaOf .b w ws fun ea ws => .ok (.movz .b ea (bits w 9 3)) ws
  else if bits w 6 3 = 7#3 then withEaOf .w w ws fun ea ws => .ok (.movz .w ea (bits w 9 3)) ws
  else .reject .lineAUnassigned

/-- The format in the source-specifier field (rules R112, R325). -/
def withFmt (src : BitVec 3) (k : FpFmt → Decoded) : Decoded :=
  if src = 6#3 then k .b
  else if src = 4#3 then k .w
  else if src = 0#3 then k .l
  else if src = 1#3 then k .s
  else if src = 5#3 then k .d
  else .reject .fpFormat

/-- The FMOVE opmodes `R000P00` (rule R326): `$00`, `$40`, `$44`. -/
def withRp (op : BitVec 7) (k : RoundPrec → Decoded) : Decoded :=
  if op = 0x00#7 then k .default
  else if op = 0x40#7 then k .single
  else if op = 0x44#7 then k .double
  else .reject .fpOpmode

/-- FMOVE, FMOVERZ and FMOVEURZ (rules R325 to R330). -/
def fpgen (w : Word) (ws : List Word) : Decoded :=
  withWord ws fun w2 ws =>
    let fp := bits w2 7 3
    let op := bits w2 0 7
    if bits w2 14 2 = 1#2 then
      if bit w2 13 then
        if op = 0x00#7 then withFmt (bits w2 10 3) fun fmt => withEaOf fmt.size w ws fun ea ws => .ok (.fmoveFpEa fmt fp ea) ws
        else if op = 0x01#7 then withFmt (bits w2 10 3) fun fmt => withEaOf fmt.size w ws fun ea ws => .ok (.fmoverz fmt fp ea) ws
        else if op = 0x03#7 then withFmt (bits w2 10 3) fun fmt => withEaOf fmt.size w ws fun ea ws => .ok (.fmoveurz fmt fp ea) ws
        else .reject .fpOpmode
      else withRp op fun rp => withFmt (bits w2 10 3) fun fmt =>
        withEaOf fmt.size w ws fun ea ws => .ok (.fmoveEaFp fmt rp ea fp) ws
    else .reject .noRow

/-- FDBcc.L: word 2 bits 15-6 zero, word 3 bit 0 = 1 (rule R323). -/
def fdbcc (w : Word) (ws : List Word) : Decoded :=
  withWord ws fun w2 ws => withWord ws fun w3 ws =>
    if bits w2 6 10 = 0#10 then
      if bit w3 0 then .ok (.fdbccL (bits w2 0 6) (bits w 0 3) w3) ws else .reject .noRow
    else .reject .noRow

/-- Line-F id 3: MOVE16 and TOUCH (rules R186, R187, R212); `$F610-$F617` as `F610_IS` says (rule R113). -/
def move16 (cfg : Config) (w : Word) (ws : List Word) : Decoded :=
  let r := bits w 0 3
  if bits w 3 3 = 0#3 then withLong ws fun l ws => .ok (.move16PiAbs r l) ws
  else if bits w 3 3 = 1#3 then withLong ws fun l ws => .ok (.move16AbsPi l r) ws
  else if bits w 3 3 = 2#3 then
    match cfg.f610Is with
    | .move16 => withLong ws fun l ws => .ok (.move16AnAbs r l) ws
    | .touch => .ok (.touchAn r) ws
    | .refuse => .reject .conflicted
  else if bits w 3 3 = 3#3 then withLong ws fun l ws => .ok (.move16AbsAn l r) ws
  else if bits w 3 3 = 4#3 then
    withWord ws fun w2 ws =>
      if bits w2 0 12 = 0#12 ∧ bit w2 15 then .ok (.move16PiPi r (bits w2 12 3)) ws
      else .reject .reservedField
  else if bits w 3 3 = 6#3 then withIndexExt ws fun e ws => .ok (.touchIndex r e) ws
  else .reject .noRow

/-- The class L instructions with operands `<vea>`, b, d, and the other `<vea>` instructions, by opcode byte;
fields the figures print as zero must be zero (rule R106). -/
def veaInstr (op : Byte) (vea : Vea) (b d : Reg5) : Except Reject Instr :=
  match op with
  | 0x01#8 =>
    if b = 0#5 then .ok (.load vea d) else if b = 1#5 then .ok (.loadi vea d) else .error .reservedField
  | 0x04#8 =>
    if d = 0#5 then .ok (.store b vea) else if d = 1#5 then .ok (.storei b vea) else .error .reservedField
  | 0x05#8 => .ok (.storeilm b d vea)
  | 0x06#8 => .ok (.packuswb b d vea)
  | 0x07#8 => .ok (.pack3216 b d vea)
  | 0x08#8 => .ok (.pand vea b d)
  | 0x09#8 => .ok (.por vea b d)
  | 0x0A#8 => .ok (.peor vea b d)
  | 0x0B#8 => .ok (.pandn vea b d)
  | 0x0C#8 => .ok (.pavgb vea b d)
  | 0x10#8 => .ok (.paddb vea b d)
  | 0x11#8 => .ok (.paddw vea b d)
  | 0x12#8 => .ok (.psubb vea b d)
  | 0x13#8 => .ok (.psubw vea b d)
  | 0x14#8 => .ok (.paddusb vea b d)
  | 0x15#8 => .ok (.paddusw vea b d)
  | 0x16#8 => .ok (.psubusb vea b d)
  | 0x17#8 => .ok (.psubusw vea b d)
  | 0x18#8 => .ok (.pmul88 vea b d)
  | 0x19#8 => .ok (.pmula vea b d)
  | 0x1A#8 => .ok (.pmulh vea b d)
  | 0x1B#8 => .ok (.pmull vea b d)
  | 0x1C#8 => .ok (.bflyb vea b d)
  | 0x1D#8 => .ok (.bflyw vea b d)
  | 0x1E#8 => if b = 0#5 then .ok (.unpack1632 vea d) else .error .reservedField
  | 0x20#8 => .ok (.pcmpeqb vea b d)
  | 0x21#8 => .ok (.pcmpeqw vea b d)
  | 0x22#8 => .ok (.pcmphib vea b d)
  | 0x23#8 => .ok (.pcmphiw vea b d)
  | 0x24#8 => .ok (.storec b d vea)
  | 0x25#8 => .ok (.storem b d vea)
  | 0x28#8 => if b = 0#5 then .ok (.c2p vea d) else .error .reservedField
  | 0x29#8 => .ok (.bsel vea b d)
  | 0x2C#8 => .ok (.pcmpgeb vea b d)
  | 0x2D#8 => .ok (.pcmpgew vea b d)
  | 0x2E#8 => .ok (.pcmpgtb vea b d)
  | 0x2F#8 => .ok (.pcmpgtw vea b d)
  | 0x30#8 => .ok (.pminsb vea b d)
  | 0x31#8 => .ok (.pminsw vea b d)
  | 0x32#8 => .ok (.pminub vea b d)
  | 0x33#8 => .ok (.pminuw vea b d)
  | 0x34#8 => .ok (.pmaxsb vea b d)
  | 0x35#8 => .ok (.pmaxsw vea b d)
  | 0x36#8 => .ok (.pmaxub vea b d)
  | 0x37#8 => .ok (.pmaxuw vea b d)
  | 0x38#8 => .ok (.lslq vea b d)
  | 0x39#8 => .ok (.lsrq vea b d)
  | _ => .error .noRow

/-- Class R4: `B = 0`, `b = 0000`, `mode[2:1] = 00`, `reg[1:0] = 00` (rules R91, R105, R106). -/
def groupInstr (op : Byte) (grp : BitVec 3) (d : Reg5) : Instr :=
  if op = 0x02#8 then .transhi grp d else if op = 0x03#8 then .translo grp d else .minterm grp d

/-- TEX: word 3 `1 vvv 1 SS 0 S TTT 00 SS` or `1 vvv 0000 mmmm 0000` (rules R300, R301). -/
def texInstr (w w2 : Word) (ws : List Word) : Decoded :=
  withWord ws fun w3 ws =>
    if bit w2 15 then .reject .texForm
    else if bit w3 15 ∧ bit w3 11 ∧ bit w3 8 = false ∧ bits w3 2 2 = 0#2 then
      .ok (.tex (bits w 0 3) (bits w2 12 3) (bits w3 12 3) (bits w2 8 4) (bits w3 9 2) (bit w3 7)
        (bits w3 4 3) (bits w3 0 2)) ws
    else if bit w3 15 ∧ bits w3 8 4 = 0#4 ∧ bits w3 0 4 = 0#4 then
      .ok (.texB (bits w 0 3) (bits w2 12 3) (bits w3 12 3) (bits w2 8 4) (bits w3 4 4)) ws
    else .reject .texForm

/-- Line-F id 7, the AMMX unit (rules R100 to R106, R296, R310). -/
def ammx (cfg : Config) (w : Word) (ws : List Word) : Decoded :=
  withWord ws fun w2 ws =>
    let b : Reg5 := bits w 7 1 ++ bits w2 12 4
    let d : Reg5 := bits w 6 1 ++ bits w2 8 4
    let op := bits w2 0 8
    if bits w 0 6 = 0x3F#6 then
      if bits w2 4 4 = 0#4 then
        withLong ws fun sel ws => .ok (.vperm (bits w 8 1 ++ bits w2 0 4) b d sel) ws
      else .reject .reservedField
    else if op = 0x3E#8 ∧ bits w 3 13 = 0x1FC6#13 then texInstr w w2 ws
    else if bits w2 6 2 ≠ 0#2 then .reject .ammxM
    else if op = 0x02#8 ∨ op = 0x03#8 ∨ op = 0x2A#8 then
      if b = 0#5 ∧ bits w 4 2 = 0#2 ∧ bits w 0 2 = 0#2 then
        .ok (groupInstr op (bits w 8 1 ++ bits w 2 2) d) ws
      else .reject .reservedField
    else withVea (bit w 8) (bits w 3 3) (bits w 0 3) ws fun vea ws =>
      if cfg.storem3 = some op ∧ bit w 6 = false then .ok (.storem3 b (bits w2 8 2) (bits w2 10 2) vea) ws
      else match veaInstr op vea b d with
        | .ok i => .ok i ws
        | .error r => .reject r

/-- Line 1111 by coprocessor id (rule R109). -/
def lineF (cfg : Config) (w : Word) (ws : List Word) : Decoded :=
  if bits w 6 6 = 0x08#6 then fpgen w ws
  else if bits w 3 9 = 0x049#9 then fdbcc w ws
  else if bits w 6 6 = 0x18#6 then move16 cfg w ws
  else if bits w 9 3 = 7#3 then ammx cfg w ws
  else .reject .noRow

/-- One instruction without a prefix, by bits 15-12 of its first word (rule R107). -/
def single (cfg : Config) : List Word → Decoded
  | [] => .reject .truncated
  | w :: ws =>
    match bits w 12 4 with
    | 0x0#4 => line0 cfg w ws
    | 0x1#4 => line1 w ws
    | 0x4#4 => line4 w ws
    | 0x5#4 => line5 w ws
    | 0x6#4 => .ok (branch (bits w 8 4) (bits w 0 8)) ws
    | 0xA#4 => lineA w ws
    | 0xC#4 => if bits w 3 6 = 0x30#6 then .ok (.cmpBnDn (bits w 0 3) (bits w 9 3)) ws else .reject .noRow
    | 0xF#4 => lineF cfg w ws
    | _ => .reject .noRow

/-- The bundle of a BANK word and the instruction decoded after it; FMOVE with a data register has its own
constructors (rules R136, R139, R328). -/
def bundleOf (p : BankPrefix) : Instr → Instr
  | .fmoveEaFp fmt rp (.dn r) fp => .floadi p fmt rp r fp
  | .fmoveFpEa fmt fp (.dn r) => .fstorei p fmt fp r
  | i => .bank p i

/-- The fields of the BANK word `0111 ccc 1 SS CC AA BB` (rule R136). -/
def prefixOf (w : Word) : BankPrefix where
  ccc := bits w 9 3
  ss := bits w 6 2
  cc := bits w 4 2
  aa := bits w 2 2
  bb := bits w 0 2

/-- The word is a BANK prefix: bits 15-12 = 0111 and bit 8 = 1 (rules R114, R136). -/
def isBank (w : Word) : Bool := bits w 12 4 = 7#4 && bit w 8

end Decode

/-- The decoder: an instruction or a BANK bundle at the head of a list of words, and the words after it
(rules R90, R107, R114, R139). A BANK word before words that are no instruction is a bundle that is not
admitted (rule R140). -/
def decode (cfg : Config) : List Word → Decoded
  | [] => .reject .truncated
  | w :: ws =>
    if Decode.isBank w then
      match Decode.single cfg ws with
      | .ok i rest => .ok (Decode.bundleOf (Decode.prefixOf w) i) rest
      | .reject .truncated => .reject .truncated
      | .reject _ => .reject .bundle
    else Decode.single cfg (w :: ws)

/-- Why the decoded instruction is refused although its words match a row: an operand form, a bundle or a
parameter (rules R93, R140, R353 last sentence). -/
def formRefusal (cfg : Config) (i : Instr) : Option Reject := i.complaint cfg

/-- The longest instruction: a BANK word, two words of FMOVE.D and a quad immediate (rules R90, R102). -/
def maxWords : Nat := 7

/-- The words of an instruction whose bits are `w`, numbered as spec/opcode_table.json numbers them; the bits
from `nbits` on are 0. -/
def tableWords (nbits w : Nat) : List Word :=
  (List.range maxWords).map fun k => BitVec.ofNat 16 ((w % 2 ^ nbits) >>> (16 * k))

/-- The instruction the decoder reads from a table word, with the default parameters. -/
def decodeTableWord (nbits w : Nat) : Option Instr :=
  match decode .default (tableWords nbits w) with
  | .ok i _ => some i
  | .reject _ => none

namespace Encode

/-- The two words of a long, most significant first (rule R61). -/
def longWords (l : Long) : List Word := [l.extractLsb' 16 16, l.extractLsb' 0 16]

/-- The four words of a quad (rule R104). -/
def quadWords (q : QWord) : List Word :=
  [q.extractLsb' 48 16, q.extractLsb' 32 16, q.extractLsb' 16 16, q.extractLsb' 0 16]

/-- The brief extension word (rule R94). -/
def briefWord (e : Brief) : Word :=
  BitVec.ofBool e.da ++ e.xn ++ BitVec.ofBool e.wl ++ e.scale ++ 0#1 ++ e.d8

/-- `BDsize`, and the low bits of `IIS` (rule R95). -/
def dispCode : FullDisp → BitVec 2
  | .null => 1
  | .word _ => 2
  | .long _ => 3

def dispWords : FullDisp → List Word
  | .null => []
  | .word w => [w]
  | .long l => longWords l

def iisCode : Indirection → BitVec 3
  | .none => 0
  | .pre od => 0#1 ++ dispCode od
  | .post od => 1#1 ++ dispCode od

def iisWords : Indirection → List Word
  | .none => []
  | .pre od => dispWords od
  | .post od => dispWords od

/-- The words of TOUCH's index extension (rules R94, R95). -/
def indexExtWords : IndexExt → List Word
  | .brief e => [briefWord e]
  | .full e =>
    (BitVec.ofBool e.da ++ e.xn ++ BitVec.ofBool e.wl ++ e.scale ++ 1#1 ++ BitVec.ofBool e.bs ++
      BitVec.ofBool e.is ++ dispCode e.bd ++ 0#1 ++ iisCode e.iis) :: (dispWords e.bd ++ iisWords e.iis)

/-- The mode field (rule R92). -/
def eaMode : Ea → BitVec 3
  | .dn _ => 0
  | .an _ => 1
  | .ind _ => 2
  | .postinc _ => 3
  | .predec _ => 4
  | .disp _ _ => 5
  | .index _ _ => 6
  | .absW _ | .absL _ | .pcDisp _ | .pcIndex _ | .imm _ => 7

/-- The register field (rule R92). -/
def eaReg : Ea → BitVec 3
  | .dn n | .an n | .ind n | .postinc n | .predec n | .disp n _ | .index n _ => n
  | .absW _ => 0
  | .absL _ => 1
  | .pcDisp _ => 2
  | .pcIndex _ => 3
  | .imm _ => 4

/-- The words of an immediate operand (rules R92, R96). -/
def immWords (sz : Size) (v : QWord) : List Word :=
  match sz with
  | .b => [(v.extractLsb' 0 8).setWidth 16]
  | .w => [v.extractLsb' 0 16]
  | .l => longWords (v.extractLsb' 0 32)
  | .q => quadWords v

/-- The extension words of an `<ea>` (rule R92). -/
def eaWords (sz : Size) : Ea → List Word
  | .dn _ | .an _ | .ind _ | .postinc _ | .predec _ => []
  | .disp _ d => [d]
  | .index _ e => [briefWord e]
  | .absW w => [w]
  | .absL l => longWords l
  | .pcDisp d => [d]
  | .pcIndex e => [briefWord e]
  | .imm v => immWords sz v

/-- The `A` bit that a base register sets (rule R103). -/
def baseA : Base → BitVec 1
  | .a _ => 0
  | .b _ => 1

def baseReg : Base → BitVec 3
  | .a n | .b n => n

/-- The `A` bit of a `<vea>` (rule R103). -/
def veaA : Vea → BitVec 1
  | .reg k => k.extractLsb' 4 1
  | .ind r | .postinc r | .predec r | .disp r _ | .index r _ => baseA r
  | .absW _ | .absL _ | .pcDisp _ | .pcIndex _ | .immQ _ => 0
  | .immW _ => 1

/-- The mode field of a `<vea>` (rule R103). -/
def veaMode : Vea → BitVec 3
  | .reg k => 0#2 ++ k.extractLsb' 3 1
  | .ind _ => 2
  | .postinc _ => 3
  | .predec _ => 4
  | .disp _ _ => 5
  | .index _ _ => 6
  | .absW _ | .absL _ | .pcDisp _ | .pcIndex _ | .immQ _ | .immW _ => 7

/-- The register field of a `<vea>` (rule R103). -/
def veaReg : Vea → BitVec 3
  | .reg k => k.extractLsb' 0 3
  | .ind r | .postinc r | .predec r | .disp r _ | .index r _ => baseReg r
  | .absW _ => 0
  | .absL _ => 1
  | .pcDisp _ => 2
  | .pcIndex _ => 3
  | .immQ _ | .immW _ => 4

/-- The extension words of a `<vea>` (rule R102). -/
def veaWords : Vea → List Word
  | .reg _ | .ind _ | .postinc _ | .predec _ => []
  | .disp _ d => [d]
  | .index _ e => [briefWord e]
  | .absW w => [w]
  | .absL l => longWords l
  | .pcDisp d => [d]
  | .pcIndex e => [briefWord e]
  | .immQ v => quadWords v
  | .immW w => [w]

/-- The size code 0 byte, 1 word, 2 long (rule R112). -/
def sizeCode : Size → BitVec 2
  | .b => 0
  | .w => 1
  | .l => 2
  | .q => 3

/-- Format `EA6`: ten opcode bits and an `<ea>` (rule R91). -/
def ea6 (op10 : BitVec 10) (ea : Ea) : Word := op10 ++ eaMode ea ++ eaReg ea

/-- Format `R3_EA6` (rule R91). -/
def r3ea6 (line : BitVec 4) (r opm : BitVec 3) (ea : Ea) : Word := line ++ r ++ opm ++ eaMode ea ++ eaReg ea

/-- Word 1 of format `EXT0E` (rule R91). -/
def ext0E (sz : Size) (ea : Ea) : Word := 0x0E#8 ++ sizeCode sz ++ eaMode ea ++ eaReg ea

/-- Format `AMMX`: word 1, word 2 with the opcode byte, the extension words of the `<vea>` (rules R91, R102). -/
def ammxWords (op : Byte) (vea : Vea) (b d : Reg5) : List Word :=
  (0x7F#7 ++ veaA vea ++ b.extractLsb' 4 1 ++ d.extractLsb' 4 1 ++ veaMode vea ++ veaReg vea) ::
    (b.extractLsb' 0 4 ++ d.extractLsb' 0 4 ++ op) :: veaWords vea

/-- Format `AMMX_R4` (rule R91). -/
def groupWords (op : Byte) (grp : BitVec 3) (d : Reg5) : List Word :=
  [0x7F#7 ++ grp.extractLsb' 2 1 ++ 0#1 ++ d.extractLsb' 4 1 ++ 0#2 ++ grp.extractLsb' 0 2 ++ 0#2,
   0#4 ++ d.extractLsb' 0 4 ++ op]

/-- The source-specifier code of a format (rules R112, R325). -/
def fmtCode : FpFmt → BitVec 3
  | .b => 6
  | .w => 4
  | .l => 0
  | .s => 1
  | .d => 5

/-- The FMOVE opmode (rule R326). -/
def rpCode : RoundPrec → BitVec 7
  | .default => 0x00
  | .single => 0x40
  | .double => 0x44

/-- Word 2 of format `FPGEN` (rule R91). -/
def fpWord2 (dir : BitVec 1) (fmt : FpFmt) (fp : Reg3) (op : BitVec 7) : Word :=
  1#2 ++ dir ++ fmtCode fmt ++ fp ++ op

/-- FMOVE `<ea>`,FPn (rule R325). -/
def fmoveIn (fmt : FpFmt) (rp : RoundPrec) (ea : Ea) (fp : Reg3) : List Word :=
  ea6 0x3C8 ea :: fpWord2 0 fmt fp (rpCode rp) :: eaWords fmt.size ea

/-- FMOVE, FMOVERZ, FMOVEURZ FPn,`<ea>` (rules R327, R329, R330). -/
def fmoveOut (op : BitVec 7) (fmt : FpFmt) (fp : Reg3) (ea : Ea) : List Word :=
  ea6 0x3C8 ea :: fpWord2 1 fmt fp op :: eaWords fmt.size ea

/-- The BANK word (rule R136). -/
def bankWord (p : BankPrefix) : Word := 7#4 ++ p.ccc ++ 1#1 ++ p.ss ++ p.cc ++ p.aa ++ p.bb

/-- A one-word branch (rule R91 format `BRANCH8`). -/
def branch (cond : BitVec 4) (d8 : Byte) : List Word := [6#4 ++ cond ++ d8]

end Encode

open Encode in
/-- The encoder: the words of an instruction, from the encoding lines of its rule. -/
def encode (cfg : Config) : Instr → List Word
  | .addiw imm ea => ea6 0x01B ea :: imm :: eaWords .l ea
  | .addqBn data bn => [5#4 ++ data ++ 0x01#6 ++ bn]
  | .bank p inner => bankWord p :: encode cfg inner
  | .bhi d8 => branch 0x2 d8
  | .bls d8 => branch 0x3 d8
  | .bcc d8 => branch 0x4 d8
  | .bcs d8 => branch 0x5 d8
  | .bne d8 => branch 0x6 d8
  | .beq d8 => branch 0x7 d8
  | .bvc d8 => branch 0x8 d8
  | .bvs d8 => branch 0x9 d8
  | .bpl d8 => branch 0xA d8
  | .bmi d8 => branch 0xB d8
  | .bge d8 => branch 0xC d8
  | .blt d8 => branch 0xD d8
  | .bgt d8 => branch 0xE d8
  | .ble d8 => branch 0xF d8
  | .bra d8 => branch 0x0 d8
  | .bsr d8 => branch 0x1 d8
  | .clrQ ea => ea6 0x2B8 ea :: eaWords .q ea
  | .clrB ea => ea6 0x108 ea :: eaWords .b ea
  | .clrW ea => ea6 0x109 ea :: eaWords .w ea
  | .clrL ea => ea6 0x10A ea :: eaWords .l ea
  | .cmpBnDn bn dn => [0xC#4 ++ dn ++ 0x30#6 ++ bn]
  | .cmpiw imm ea => ea6 0x138 ea :: imm :: eaWords .l ea
  | .dbccL cond dn disp => [5#4 ++ cond ++ 0x19#5 ++ dn, disp]
  | .extub dn => [0x978#13 ++ dn]
  | .extuw dn => [0x9B8#13 ++ dn]
  | .leaEaBn ea bn => r3ea6 4 bn 5 ea :: eaWords .l ea
  | .leaBnAn bn an => [4#4 ++ an ++ 0x39#6 ++ bn]
  | .mov3q data ea => r3ea6 0xA data 1 ea :: eaWords .l ea
  | .moveBnEa bn ea => (1#4 ++ eaReg ea ++ eaMode ea ++ 1#3 ++ bn) :: eaWords .l ea
  | .moveaEaBn ea bn => r3ea6 1 bn 1 ea :: eaWords .l ea
  | .moveSrEa ea => ea6 0x103 ea :: eaWords .w ea
  | .oriSr imm => [0x007C, imm]
  | .andiSr imm => [0x027C, imm]
  | .move16PiPi ax ay => [0x1EC4#13 ++ ax, 1#1 ++ ay ++ 0#12]
  | .move16PiAbs an l => (0x1EC0#13 ++ an) :: longWords l
  | .move16AbsPi l an => (0x1EC1#13 ++ an) :: longWords l
  | .move16AnAbs an l => (0x1EC2#13 ++ an) :: longWords l
  | .move16AbsAn l an => (0x1EC3#13 ++ an) :: longWords l
  | .movecRcRn rn creg => [0x4E7A, rn ++ creg]
  | .movecRnRc rn creg => [0x4E7B, rn ++ creg]
  | .move2 sz toMem b c ea => ext0E sz ea :: (b ++ BitVec.ofBool toMem ++ 0#1 ++ c ++ 0x11#6) :: eaWords sz ea
  | .move2Old sz toMem b ea => ext0E sz ea :: (b ++ BitVec.ofBool toMem ++ 0x011#11) :: eaWords sz ea
  | .moveh toMem b ea => ext0E .w ea :: (b ++ BitVec.ofBool toMem ++ 0x013#11) :: eaWords .w ea
  | .movex sz toEa b ea => ext0E sz ea :: (b ++ BitVec.ofBool toEa ++ 0x010#11) :: eaWords sz ea
  | .moviw imm ea => ea6 0x288 ea :: imm :: eaWords .l ea
  | .movs sz ea dn => r3ea6 0xA dn (if sz = .w then 5 else 4) ea :: eaWords sz ea
  | .movz sz ea dn => r3ea6 0xA dn (if sz = .w then 7 else 6) ea :: eaWords sz ea
  | .movz2 sz b c ea => ext0E sz ea :: (b ++ 0#2 ++ c ++ 0x12#6) :: eaWords sz ea
  | .perm a b pos0 pos1 pos2 pos3 => [0x4CC#12 ++ a, b ++ pos0 ++ pos1 ++ pos2 ++ pos3]
  | .subqBn data bn => [5#4 ++ data ++ 0x21#6 ++ bn]
  | .touchIndex an ext => (0x1EC6#13 ++ an) :: indexExtWords ext
  | .touchAn an => [0x1EC2#13 ++ an]
  | .bflyb vea b d => ammxWords 0x1C vea b d
  | .bflyw vea b d => ammxWords 0x1D vea b d
  | .bsel vea b d => ammxWords 0x29 vea b d
  | .c2p vea d => ammxWords 0x28 vea 0 d
  | .load vea d => ammxWords 0x01 vea 0 d
  | .loadi vea d => ammxWords 0x01 vea 1 d
  | .lslq vea b d => ammxWords 0x38 vea b d
  | .lsrq vea b d => ammxWords 0x39 vea b d
  | .minterm grp d => groupWords 0x2A grp d
  | .pack3216 b d vea => ammxWords 0x07 vea b d
  | .packuswb b d vea => ammxWords 0x06 vea b d
  | .paddb vea b d => ammxWords 0x10 vea b d
  | .paddw vea b d => ammxWords 0x11 vea b d
  | .paddusb vea b d => ammxWords 0x14 vea b d
  | .paddusw vea b d => ammxWords 0x15 vea b d
  | .pand vea b d => ammxWords 0x08 vea b d
  | .pandn vea b d => ammxWords 0x0B vea b d
  | .pavgb vea b d => ammxWords 0x0C vea b d
  | .pcmpeqb vea b d => ammxWords 0x20 vea b d
  | .pcmphib vea b d => ammxWords 0x22 vea b d
  | .pcmpgeb vea b d => ammxWords 0x2C vea b d
  | .pcmpgtb vea b d => ammxWords 0x2E vea b d
  | .pcmpeqw vea b d => ammxWords 0x21 vea b d
  | .pcmphiw vea b d => ammxWords 0x23 vea b d
  | .pcmpgew vea b d => ammxWords 0x2D vea b d
  | .pcmpgtw vea b d => ammxWords 0x2F vea b d
  | .peor vea b d => ammxWords 0x0A vea b d
  | .pmaxsb vea b d => ammxWords 0x34 vea b d
  | .pmaxub vea b d => ammxWords 0x36 vea b d
  | .pmaxsw vea b d => ammxWords 0x35 vea b d
  | .pmaxuw vea b d => ammxWords 0x37 vea b d
  | .pminsb vea b d => ammxWords 0x30 vea b d
  | .pminub vea b d => ammxWords 0x32 vea b d
  | .pminsw vea b d => ammxWords 0x31 vea b d
  | .pminuw vea b d => ammxWords 0x33 vea b d
  | .pmul88 vea b d => ammxWords 0x18 vea b d
  | .pmulh vea b d => ammxWords 0x1A vea b d
  | .pmull vea b d => ammxWords 0x1B vea b d
  | .pmula vea b d => ammxWords 0x19 vea b d
  | .por vea b d => ammxWords 0x09 vea b d
  | .psubb vea b d => ammxWords 0x12 vea b d
  | .psubw vea b d => ammxWords 0x13 vea b d
  | .psubusb vea b d => ammxWords 0x16 vea b d
  | .psubusw vea b d => ammxWords 0x17 vea b d
  | .store b vea => ammxWords 0x04 vea b 0
  | .storec b d vea => ammxWords 0x24 vea b d
  | .storei b vea => ammxWords 0x04 vea b 1
  | .storeilm b d vea => ammxWords 0x05 vea b d
  | .storem b d vea => ammxWords 0x25 vea b d
  | .storem3 b mode xx vea => ammxWords (cfg.storem3.getD 0x25) vea b (0#1 ++ xx ++ mode)
  | .tex an au av d s1 s2 ttt s3 =>
    [0x1FC6#13 ++ an, 0#1 ++ au ++ d ++ 0x3E#8,
     1#1 ++ av ++ 1#1 ++ s1 ++ 0#1 ++ BitVec.ofBool s2 ++ ttt ++ 0#2 ++ s3]
  | .texB an au av d dm => [0x1FC6#13 ++ an, 0#1 ++ au ++ d ++ 0x3E#8, 1#1 ++ av ++ 0#4 ++ dm ++ 0#4]
  | .transhi grp d => groupWords 0x02 grp d
  | .translo grp d => groupWords 0x03 grp d
  | .unpack1632 vea d => ammxWords 0x1E vea 0 d
  | .vperm a b d sel =>
    (0x7F#7 ++ a.extractLsb' 4 1 ++ b.extractLsb' 4 1 ++ d.extractLsb' 4 1 ++ 0x3F#6) ::
      (b.extractLsb' 0 4 ++ d.extractLsb' 0 4 ++ 0#4 ++ a.extractLsb' 0 4) :: longWords sel
  | .fdbccL pred dn disp => [0x1E49#13 ++ dn, 0#10 ++ pred, disp]
  | .fmoveEaFp fmt rp ea fp => fmoveIn fmt rp ea fp
  | .fmoveFpEa fmt fp ea => fmoveOut 0x00 fmt fp ea
  | .fmoverz fmt fp ea => fmoveOut 0x01 fmt fp ea
  | .fmoveurz fmt fp ea => fmoveOut 0x03 fmt fp ea
  | .floadi p fmt rp dn fp => bankWord p :: fmoveIn fmt rp (.dn dn) fp
  | .fstorei p fmt fp dn => bankWord p :: fmoveOut 0x00 fmt fp (.dn dn)

end Sys2Proof
end

