-- ==== Sys2Proof/Machine/State.lean ====
section
/-!
DEFINITION. The state of the machine as plain data (10_state.md), the reasons a step can stop
(60_exceptions.md, 00_scope.md rule R12), and the state after reset (rules R50, R380, R381).
-/

namespace Sys2Proof.Machine

/-- A 64-bit register as its two longs: `hi` bits 63-32, `lo` bits 31-0 (rules R20 to R24). Integer
instructions read and write `lo` only. -/
structure Reg64 where
  hi : Long
  lo : Long
deriving DecidableEq, Repr

/-- The status register, 16 bits (rules R30 to R32). `sys` is the system byte: T1 bit 7, T0 bit 6, S bit 5,
M bit 4, apollo-bit bit 3, interrupt mask bits 2-0 of the byte. Bits 7-5 of the register read as zero, so
the low byte is the five flags. -/
structure StatusReg where
  sys : Byte
  x : Bool
  n : Bool
  z : Bool
  v : Bool
  c : Bool
deriving DecidableEq, Repr

/-- The floating-point condition bits N, Z, I, nan (rules R35, R322). -/
structure FpCc where
  n : Bool
  z : Bool
  i : Bool
  nan : Bool
deriving DecidableEq, Repr

/-- The writable bits of PCR: 7 `edebug`, 6 `amiga`, 1 `dfp`, 0 `ess`; its other bits are read-only (rule R37). -/
structure Pcr where
  edebug : Bool
  amiga : Bool
  dfp : Bool
  ess : Bool
deriving DecidableEq, Repr

/-- The twelve event counters by name (rules R36, R38, R368). A counter's value between two reads is
unknown; the field holds what the last read gave (log entry 9). -/
structure Counters where
  ccc : Long
  iep1 : Long
  iep2 : Long
  bpc : Long
  bpw : Long
  dch : Long
  dcm : Long
  str : Long
  stc : Long
  sth : Long
  stb : Long
  mwr : Long
deriving DecidableEq, Repr

/-- Consecutive addresses `base .. base+size-1` of the launch state (rules R72, R381). -/
structure Region where
  base : Nat
  size : Nat
deriving DecidableEq, Repr

/-- Memory: the bytes that differ from what an unlisted address reads as, addresses strictly rising
(rules R63, R72). -/
abbrev Memory := List Host.Cell

/-- What an address that is not listed reads as (log entry 6). -/
def unlistedByte : Byte := 0

/-- The canonical form from an address on: addresses rise strictly from `lo`, lie below `2^32`, and no
entry equals what an unlisted address reads as. -/
def Memory.wfFrom (lo : Nat) : Memory → Bool
  | [] => true
  | (a, v) :: rest => decide (lo ≤ a) && decide (a < 2 ^ 32) && v != unlistedByte && Memory.wfFrom (a + 1) rest

/-- The canonical form. -/
def Memory.wf (m : Memory) : Bool := Memory.wfFrom 0 m

/-- The machine. `cfg`, `text`, `regions` and `draws` are the model's own: the parameters (rule R9), the
program text and the data addresses of the launch state (rule R381), and the count of free values drawn. -/
structure State where
  /-- `R5[0..31]`: `D0..D7` at 0-7, `E0..E23` at 8-31 (rules R20 to R22, R25). -/
  data : Vector Reg64 32
  /-- `A0..A7` (rule R23). -/
  areg : Vector Reg64 8
  /-- `B0..B7` (rules R23, R44). -/
  breg : Vector Reg64 8
  /-- The user stack pointer, which the spec says exists and gives no rule that reads or writes it: `A7` is the one
  stack pointer an instruction uses (rules R39, R355, R344; log entry 15). -/
  usp : Reg64
  /-- `FP0..FP7` in the double layout (rules R28, R321). -/
  fpr : Vector QWord 8
  /-- The address of the instruction being executed (rule R29). -/
  pc : Addr
  /-- The status register (rules R30 to R32). -/
  sr : StatusReg
  /-- The floating-point condition bits (rule R35). -/
  fpcc : FpCc
  /-- The processor configuration register's writable bits (rule R37). -/
  pcr : Pcr
  /-- The event counters (rule R38). -/
  counters : Counters
  /-- Memory (rules R60 to R75). -/
  mem : Memory
  /-- The program text, immutable (rules R80, R381). -/
  text : List Region
  /-- The data addresses a program may read and write (rules R72, R381). -/
  regions : List Region
  /-- The named parameters (rule R9). -/
  cfg : Config
  /-- How many free values the run has drawn; the next is `Config.freeBits draws`. -/
  draws : Nat
deriving DecidableEq, Repr

/-- The exceptions of the table of rule R351, with the vector numbers it gives for orientation:
line-A 10, privilege violation 8, trace 9, address error 3. -/
inductive Exception where
  /-- A Line-A word with the apollo-bit clear, or an unassigned Line-A word (rule R353). -/
  | lineA
  /-- MOVEC Rn,Rc, or another immediate than the apollo-bit's to SR, in user mode (rule R356). -/
  | privilegeViolation
  /-- A traceable instruction completed with SR bit 15 set (rule R360). -/
  | trace
  /-- `pc` is odd at instruction fetch (rule R65). -/
  | addressError
deriving DecidableEq, Repr

/-- Why the machine stops with a fault. -/
inductive Fault where
  /-- `Fault(X, info)`: the terminal outcome of an exception, with the state it leaves (rules R350, R352, D5):
  the state before the instruction, or for `trace` the state after it. Raised by `raise`. Safe: the run ends
  where the hardware would enter a handler. -/
  | raised (x : Exception) (info : Addr) (atState : State)
  /-- Stuck: an access to an address outside the launch state's data addresses has no step (rule R72, D45).
  Raised by the memory operations. Safe. -/
  | outsideData (a : Addr)
  /-- The run's normal end: `pc` has left the program text (rule R384, D38). Raised by the step. Safe: the
  run ends. -/
  | endOfText (pc : Addr)
deriving DecidableEq, Repr

/-- Why an instruction has no next state although nothing is raised (`refuse`, rule R12). All are safe: the
machine stops where the hardware goes on. -/
inductive Refusal where
  /-- The instruction has no meaning in the model. Raised by `exec` for a row still without one. -/
  | notModelled (mnemonic : String)
  /-- The words are no instruction, or one in a form that is refused (rules R93, R111, R140, R340). Raised by
  the step and by the BANK bundle's meaning. -/
  | form (r : Reject)
  /-- A store to a byte of the program text (rule R80, D32). Raised by the memory operations. -/
  | storeIntoText (a : Addr)
  /-- An operand that must be memory, or a writable location, is not (rules R93, R98). Raised by the operand
  operations on a term that is not well formed. -/
  | operand
  /-- Branch displacement `$00` or `$FF`: the legacy word and long forms (rule R141). Raised by the branches. -/
  | legacyBranch
  /-- MOVE16 with `x = y`, or ranges that overlap without being equal (rule R186, D33). Raised by MOVE16. -/
  | move16Overlap
  /-- MOVEC names a control register the source does not list (rules R36, R192). Raised by MOVEC. -/
  | controlRegister
  /-- MOVEC writes an event counter (rule R193, D40). Raised by MOVEC. -/
  | counterWrite
  /-- MOVEC writes PCR with bits 5-2 not zero (rule R37, D47). Raised by MOVEC. -/
  | pcrReserved
  /-- ORI or ANDI to SR in supervisor mode with another immediate than the apollo-bit's (rules R183, R184).
  Raised by those two. -/
  | legacySrImmediate
  /-- LOADI or STOREI selects a register number 24 to 39 (rule R27, D28). Raised by those two. -/
  | indirectIndex
  /-- A floating-point instruction while PCR `dfp` is 1 (rules R193, R333). Raised by every floating-point
  instruction. -/
  | fpuDisabled
  /-- FDBcc predicate 16-31 with nan = 1, or 32-63 (rule R324, D53). Raised by FDBcc. -/
  | fpPredicate
  /-- TEX: the source prints the encoding and the spec gives it no semantics (rules R300, R301, D42). Raised
  by TEX. -/
  | texNoSemantics
deriving DecidableEq, Repr

/-- A register whose reset value the model names: zero (log entry 4). -/
def Reg64.zero : Reg64 := ⟨0, 0⟩

/-- SR after reset: the family's `$2700` (rule R30 takes the family's layout; log entry 3). -/
def StatusReg.reset : StatusReg := ⟨0x27, false, false, false, false, false⟩

/-- PCR after reset: the `Default` column, `edebug = amiga = dfp = 0`, `ess = 1` (rules R37, R380). -/
def Pcr.reset : Pcr := ⟨false, false, false, true⟩

def Counters.reset : Counters := ⟨0, 0, 0, 0, 0, 0, 0, 0, 0, 0, 0, 0⟩

/-- The whole address space (rule R63). -/
def Region.all : Region := ⟨0, 2 ^ 32⟩

/-- The machine right after reset. The spec gives PCR's value (rules R37, R50, R380); every other value is
the model's, named in log entries 3 to 9. -/
def State.reset : State where
  data := Vector.replicate 32 Reg64.zero
  areg := Vector.replicate 8 Reg64.zero
  breg := Vector.replicate 8 Reg64.zero
  usp := Reg64.zero
  fpr := Vector.replicate 8 0
  pc := 0
  sr := StatusReg.reset
  fpcc := ⟨false, false, false, false⟩
  pcr := Pcr.reset
  counters := Counters.reset
  mem := []
  text := []
  regions := [Region.all]
  cfg := Config.default
  draws := 0

end Sys2Proof.Machine
end

