-- ==== Sys2Proof/Machine/Ops.lean ====
section
/-!
DEFINITION. The named operations over the state: outcomes in sequence, taking an exception, the free values,
the registers (10_state.md) and memory (20_memory.md). Every meaning is written over these.
-/

namespace Sys2Proof.Machine

/-- What an operation answers: a value, a fault or a refusal. -/
abbrev Res (α : Type) := Host.Outcome α Fault Refusal

/-- One operation after another; a fault or a refusal ends the instruction with none of its writes
(rules R12, R350). -/
def andThen {α β : Type} (x : Res α) (f : α → Res β) : Res β :=
  match x with
  | .next a => f a
  | .fault r => .fault r
  | .refused r => .refused r

/-- Taking an exception: the instruction ends without any of its writes and the run's outcome is
`Fault(X, info)` with all state as it was (rules R12, R350, R352, D5). The spec gives no entry sequence, no
handler and no return (rules R350, R365). -/
def raise {α : Type} (x : Exception) (info : Addr) (s : State) : Res α := .fault (.raised x info s)

/-! ### Updates of single fields -/

def State.setPc (s : State) (a : Addr) : State := { s with pc := a }
def State.setSr (s : State) (f : StatusReg) : State := { s with sr := f }
def State.setFpcc (s : State) (f : FpCc) : State := { s with fpcc := f }
def State.setPcr (s : State) (p : Pcr) : State := { s with pcr := p }
def State.setCounters (s : State) (c : Counters) : State := { s with counters := c }
def State.setMem (s : State) (m : Memory) : State := { s with mem := m }

/-- `pc <- pc + n`: past an instruction of `n` bytes, modulo `2^32` (rule R29). -/
def State.advance (s : State) (n : Nat) : State := s.setPc (s.pc + BitVec.ofNat 32 n)

/-! ### Free values (rule R12) -/

/-- The value the next draw gives. -/
def State.free (s : State) : QWord := Config.freeBits s.draws

/-- One value has been drawn. -/
def State.drawn (s : State) : State := { s with draws := s.draws + 1 }

/-! ### Registers -/

/-- A 64-bit register by file and number: `R5[k]`, `A[n]`, `B[n]` (rules R20 to R25). -/
inductive RegName where
  | d (k : Reg5)
  | a (n : Reg3)
  | b (n : Reg3)
deriving DecidableEq, Repr

/-- `Rn4[k]`: 0-7 `D0..D7`, 8-15 `A0..A7` (rule R26). -/
def rn4 (k : Reg4) : RegName :=
  if k.getLsbD 3 then .a (k.extractLsb' 0 3) else .d ((k.extractLsb' 0 3).setWidth 5)

/-- `R6[v]`, the indirect numbering of LOADI and STOREI; 24 to 39 name nothing (rule R27). -/
def r6 (v : BitVec 6) : Option RegName :=
  if v.toNat < 8 then some (.d (v.extractLsb' 0 5))
  else if v.toNat < 16 then some (.a (v.extractLsb' 0 3))
  else if v.toNat < 24 then some (.b (v.extractLsb' 0 3))
  else if v.toNat < 40 then none
  else some (.d ((v - 32#6).extractLsb' 0 5))

/-- `R5[XX : rrr]`, a 3-bit register number extended by a BANK field (rules R25, R136). -/
def banked (xx : BitVec 2) (r : Reg3) : Reg5 := xx ++ r

/-- All 64 bits. -/
def Reg64.quad (r : Reg64) : QWord := r.hi ++ r.lo

def Reg64.ofQuad (v : QWord) : Reg64 := ⟨v.extractLsb' 32 32, v.extractLsb' 0 32⟩

def State.reg (s : State) : RegName → Reg64
  | .d k => s.data[k.toNat]'k.isLt
  | .a n => s.areg[n.toNat]'n.isLt
  | .b n => s.breg[n.toNat]'n.isLt

def State.setReg (s : State) (r : RegName) (v : Reg64) : State :=
  match r with
  | .d k => { s with data := s.data.set k.toNat v k.isLt }
  | .a n => { s with areg := s.areg.set n.toNat v n.isLt }
  | .b n => { s with breg := s.breg.set n.toNat v n.isLt }

/-- `x[i].q` -/
def State.quad (s : State) (r : RegName) : QWord := (s.reg r).quad

/-- `x[i].l` -/
def State.long (s : State) (r : RegName) : Long := (s.reg r).lo

/-- `x[i].q <- v`: all 64 bits (rule R21). -/
def State.setQuad (s : State) (r : RegName) (v : QWord) : State := s.setReg r (Reg64.ofQuad v)

/-- Bits 63-32 of a register after a write of 32 bits or fewer, as `UPPER32` says (rule R24, D7). -/
def State.upperAfter (s : State) (old : Long) : Long :=
  match s.cfg.upper32 with
  | .unspecified => s.free.extractLsb' 0 32
  | .preserve => old
  | .zero => 0

/-- The draw such a write takes under `unspecified` (rule R24). -/
def State.afterUpper (s : State) : State :=
  match s.cfg.upper32 with
  | .unspecified => s.drawn
  | .preserve => s
  | .zero => s

/-- `x[i].l <- v`: bits 31-0, bits 63-32 as `UPPER32` says (rule R24). -/
def State.setLong (s : State) (r : RegName) (v : Long) : State :=
  s.afterUpper.setReg r ⟨s.upperAfter (s.reg r).hi, v⟩

/-- The low `n` bytes of a value of 64 bits. -/
def lowBytes (sz : Size) (v : QWord) : QWord :=
  match sz with
  | .b => (v.extractLsb' 0 8).setWidth 64
  | .w => (v.extractLsb' 0 16).setWidth 64
  | .l => (v.extractLsb' 0 32).setWidth 64
  | .q => v

/-- A long with its low byte or word replaced, bits up to 31 kept (rule R24). -/
def mergeLow (sz : Size) (old : Long) (v : QWord) : Long :=
  match sz with
  | .b => old.extractLsb' 8 24 ++ v.extractLsb' 0 8
  | .w => old.extractLsb' 16 16 ++ v.extractLsb' 0 16
  | .l => v.extractLsb' 0 32
  | .q => v.extractLsb' 0 32

/-- A write of the low `n` bytes of a register (rules R24, R98). -/
def State.setPart (s : State) (sz : Size) (r : RegName) (v : QWord) : State :=
  match sz with
  | .q => s.setQuad r v
  | sz => s.setLong r (mergeLow sz (s.long r) v)

/-- Bits 31-16 of a register take the value (MOVEH, rule R198). -/
def State.setHigh (s : State) (r : RegName) (v : Word) : State :=
  s.setLong r (v ++ (s.long r).extractLsb' 0 16)

/-! ### Floating-point registers -/

/-- The register number `k` of the floating-point numbering: 0-7 `FP0..FP7`, 8-31 `E0..E23` (rule R28). -/
def State.fp (s : State) (k : Reg5) : QWord :=
  if h : k.toNat < 8 then s.fpr[k.toNat] else s.quad (.d k)

/-- The 64 bits a floating-point register keeps of a value: with `F < 52` fraction bits the low `52 - F` are
unspecified (rule R321). -/
def State.kept (s : State) (x : QWord) : QWord :=
  match s.cfg.fpFraction with
  | .f52 => x
  | .f44 => x.extractLsb' 8 56 ++ s.free.extractLsb' 0 8
  | .f32 => x.extractLsb' 20 44 ++ s.free.extractLsb' 0 20

/-- The draw such a write takes with `F < 52`. -/
def State.afterKept (s : State) : State :=
  match s.cfg.fpFraction with
  | .f52 => s
  | .f44 => s.drawn
  | .f32 => s.drawn

def State.putFp (s : State) (k : Reg5) (x : QWord) : State :=
  if h : k.toNat < 8 then { s with fpr := s.fpr.set k.toNat x } else s.setQuad (.d k) x

/-- A write of a floating-point register (rules R28, R321). -/
def State.setFp (s : State) (k : Reg5) (x : QWord) : State := s.afterKept.putFp k (s.kept x)

/-! ### Memory -/

/-- The byte at an address. -/
def Memory.byte (m : Memory) (a : Nat) : Byte :=
  match m with
  | [] => unlistedByte
  | (b, v) :: rest => if a = b then v else Memory.byte rest a

/-- The memory with one byte written, in the canonical form. -/
def Memory.set (m : Memory) (a : Nat) (v : Byte) : Memory :=
  match m with
  | [] => if v = unlistedByte then [] else [(a, v)]
  | (b, w) :: rest =>
    if a < b then (if v = unlistedByte then (b, w) :: rest else (a, v) :: (b, w) :: rest)
    else if a = b then (if v = unlistedByte then rest else (a, v) :: rest)
    else (b, w) :: Memory.set rest a v

/-- The memory with a row of bytes written from an address up; `none` is a byte not written (rules R60, R69). -/
def Memory.store (m : Memory) (a : Addr) : List (Option Byte) → Memory
  | [] => m
  | none :: rest => Memory.store m (a + 1) rest
  | some v :: rest => Memory.store (m.set a.toNat v) (a + 1) rest

/-- The byte at an address of the machine's memory. -/
def State.byteAt (s : State) (a : Addr) : Byte := s.mem.byte a.toNat

/-- `MemRead(a, 2)`: big-endian (rule R60). -/
def State.wordAt (s : State) (a : Addr) : Word := s.byteAt a ++ s.byteAt (a + 1)

/-- `MemRead(a, 4)` -/
def State.longAt (s : State) (a : Addr) : Long := s.wordAt a ++ s.wordAt (a + 2)

/-- `MemRead(a, 8)` -/
def State.quadAt (s : State) (a : Addr) : QWord := s.longAt a ++ s.longAt (a + 4)

/-- `MemRead(a, n)`, zero-extended. -/
def State.sizedAt (s : State) (sz : Size) (a : Addr) : QWord :=
  match sz with
  | .b => (s.byteAt a).setWidth 64
  | .w => (s.wordAt a).setWidth 64
  | .l => (s.longAt a).setWidth 64
  | .q => s.quadAt a

/-- The address lies in the region. -/
def Region.holds (r : Region) (a : Addr) : Bool := decide (r.base ≤ a.toNat) && decide (a.toNat < r.base + r.size)

/-- A program may read and write the address (rule R72). -/
def State.inData (s : State) (a : Addr) : Bool := s.regions.any (·.holds a)

/-- The address holds a byte of the program text (rule R80). -/
def State.inText (s : State) (a : Addr) : Bool := s.text.any (·.holds a)

/-- The addresses `a .. a+n-1`, modulo `2^32` (rules R12, R64). -/
def span (a : Addr) (n : Nat) : List Addr := (List.range n).map fun i => a + BitVec.ofNat 32 i

/-- All the addresses are data addresses, or the access has no step (rule R72, D45). -/
def accessCheck (as : List Addr) (s : State) : Res State :=
  match as.find? fun a => !s.inData a with
  | some a => .fault (.outsideData a)
  | none => .next s

/-- `MemRead` of a size (rules R12, R60, R64). -/
def readMem (sz : Size) (a : Addr) (s : State) : Res QWord :=
  andThen (accessCheck (span a sz.bytes) s) fun s => .next (s.sizedAt sz a)

/-- `MemRead` of `n` bytes, as a list (MOVE16, rules R66, R188). -/
def readBytes (n : Nat) (a : Addr) (s : State) : Res (List Byte) :=
  andThen (accessCheck (span a n) s) fun s => .next ((span a n).map s.byteAt)

/-- The addresses a row of bytes is written to. -/
def written (a : Addr) : List (Option Byte) → List Addr
  | [] => []
  | none :: rest => written (a + 1) rest
  | some _ :: rest => a :: written (a + 1) rest

/-- A store of a row of bytes: refused if it touches the program text (rule R80, D32), without a step if it
leaves the data addresses (rule R72), else only the selected bytes are written (rule R69). -/
def storeBytes (a : Addr) (bs : List (Option Byte)) (s : State) : Res State :=
  match (written a bs).find? s.inText with
  | some x => .refused (.storeIntoText x)
  | none => andThen (accessCheck (written a bs) s) fun s => .next (s.setMem (s.mem.store a bs))

/-- The `n` bytes of a value, most significant first (rule R60). -/
def bytesOf (sz : Size) (v : QWord) : List Byte :=
  match sz with
  | .b => [v.extractLsb' 0 8]
  | .w => [v.extractLsb' 8 8, v.extractLsb' 0 8]
  | .l => [v.extractLsb' 24 8, v.extractLsb' 16 8, v.extractLsb' 8 8, v.extractLsb' 0 8]
  | .q => [v.extractLsb' 56 8, v.extractLsb' 48 8, v.extractLsb' 40 8, v.extractLsb' 32 8,
           v.extractLsb' 24 8, v.extractLsb' 16 8, v.extractLsb' 8 8, v.extractLsb' 0 8]

/-- `MemWrite` of a size (rules R12, R60, R64). -/
def writeMem (sz : Size) (a : Addr) (v : QWord) (s : State) : Res State :=
  storeBytes a ((bytesOf sz v).map some) s

end Sys2Proof.Machine
end

