-- ==== Sys2Proof/Machine/Flags.lean ====
section
/-!
DEFINITION. The flags: the status register as a word (rule R30), the formulas of rule R33, the integer
conditions of rule R34 and the floating-point conditions of rules R322 and R324.
-/

namespace Sys2Proof.Machine

/-- SR as 16 bits: bits 7-5 zero, then X N Z V C (rules R30, R32). -/
def StatusReg.word (f : StatusReg) : Word :=
  f.sys ++ 0#3 ++ BitVec.ofBool f.x ++ BitVec.ofBool f.n ++ BitVec.ofBool f.z ++ BitVec.ofBool f.v ++
    BitVec.ofBool f.c

/-- SR bit 15, `T1` (rules R30, R360). -/
def StatusReg.trace (f : StatusReg) : Bool := f.sys.getLsbD 7

/-- SR bit 13, `S` (rules R30, R355). -/
def StatusReg.supervisor (f : StatusReg) : Bool := f.sys.getLsbD 5

/-- SR bit 11, the apollo-bit (rule R31). -/
def StatusReg.apollo (f : StatusReg) : Bool := f.sys.getLsbD 3

/-- SR with the apollo-bit set (rule R183). -/
def StatusReg.setApollo (f : StatusReg) : StatusReg := { f with sys := f.sys ||| 0x08 }

/-- SR with the apollo-bit clear (rule R184). -/
def StatusReg.clearApollo (f : StatusReg) : StatusReg := { f with sys := f.sys &&& 0xF7 }

/-- The box `- * * 0 0`: N and Z from a result, V = C = 0 (rule R33). -/
def StatusReg.moved (f : StatusReg) (n z : Bool) : StatusReg := { f with n := n, z := z, v := false, c := false }

/-- `- * * 0 0` on a long. -/
def StatusReg.movedLong (f : StatusReg) (r : Long) : StatusReg := f.moved r.msb (r == 0)

/-- `- * * 0 0` on a datum of a size, given zero-extended: N is its top bit (rules R33, R195, R198, R199). -/
def StatusReg.movedSized (f : StatusReg) (sz : Size) (v : QWord) : StatusReg :=
  f.moved (v.getLsbD (8 * sz.bytes - 1)) (v == 0)

/-- `* * * * *` as the addition `r = s + d` of longs (rule R33). -/
def StatusReg.added (f : StatusReg) (s d : Long) : StatusReg :=
  let r := s + d
  let carry := decide (2 ^ 32 ≤ s.toNat + d.toNat)
  { f with x := carry, n := r.msb, z := r == 0, v := s.msb == d.msb && r.msb != d.msb, c := carry }

/-- `- * * * *` as the subtraction `r = d - s` of longs (rule R33). -/
def StatusReg.compared (f : StatusReg) (s d : Long) : StatusReg :=
  let r := d - s
  { f with n := r.msb, z := r == 0, v := s.msb != d.msb && r.msb != d.msb, c := decide (d.toNat < s.toNat) }

/-- `* * * * *` as the subtraction `r = d - s` of longs (rule R33). -/
def StatusReg.subtracted (f : StatusReg) (s d : Long) : StatusReg :=
  { f.compared s d with x := decide (d.toNat < s.toNat) }

/-- The integer condition tests (rule R34). -/
def StatusReg.cond (f : StatusReg) (cc : BitVec 4) : Bool :=
  match cc with
  | 0x0#4 => true
  | 0x1#4 => false
  | 0x2#4 => !f.c && !f.z
  | 0x3#4 => f.c || f.z
  | 0x4#4 => !f.c
  | 0x5#4 => f.c
  | 0x6#4 => !f.z
  | 0x7#4 => f.z
  | 0x8#4 => !f.v
  | 0x9#4 => f.v
  | 0xA#4 => !f.n
  | 0xB#4 => f.n
  | 0xC#4 => f.n == f.v
  | 0xD#4 => f.n != f.v
  | 0xE#4 => !f.z && f.n == f.v
  | _ => f.z || f.n != f.v

/-- The floating-point condition bits of a value in the double layout (rule R322). -/
def fpccOf (x : QWord) : FpCc where
  n := x.msb
  z := x.extractLsb' 0 63 == 0
  i := x.extractLsb' 52 11 == 0x7FF && x.extractLsb' 0 52 == 0
  nan := x.extractLsb' 52 11 == 0x7FF && x.extractLsb' 0 52 != 0

/-- The truth value of a predicate by its low four bits (rule R324). -/
def FpCc.holds (f : FpCc) (p : BitVec 4) : Bool :=
  match p with
  | 0x0#4 => false
  | 0x1#4 => f.z
  | 0x2#4 => !(f.nan || f.z || f.n)
  | 0x3#4 => f.z || !(f.nan || f.n)
  | 0x4#4 => f.n && !(f.nan || f.z)
  | 0x5#4 => f.z || (f.n && !f.nan)
  | 0x6#4 => !(f.nan || f.z)
  | 0x7#4 => !f.nan
  | 0x8#4 => f.nan
  | 0x9#4 => f.nan || f.z
  | 0xA#4 => f.nan || !(f.n || f.z)
  | 0xB#4 => f.nan || f.z || !f.n
  | 0xC#4 => f.nan || (f.n && !f.z)
  | 0xD#4 => f.nan || f.z || f.n
  | 0xE#4 => !f.z
  | _ => true

/-- `fcond(p)`; none where the spec refuses: predicates 32-63, and 16-31 with `nan` = 1 (rule R324, D53). -/
def FpCc.cond (f : FpCc) (p : BitVec 6) : Option Bool :=
  if p.getLsbD 5 || (p.getLsbD 4 && f.nan) then none else some (f.holds (p.extractLsb' 0 4))

end Sys2Proof.Machine
end

