-- ==== Sys2Proof/Machine/Operands.lean ====
section
/-!
DEFINITION. Operands: the legacy effective address `<ea>` (rules R92 to R99), the AMMX effective address
`<vea>` (rules R102 to R105, R223), and reads and writes of the locations they give.
-/

namespace Sys2Proof.Machine

/-- What a BANK prefix adds to the instruction after it: the bytes it takes, and the `AA` and `BB` fields
(rules R136, R139). -/
structure Prefix where
  bytes : Nat
  aa : BitVec 2
  bb : BitVec 2
deriving DecidableEq, Repr

/-- No prefix. -/
def Prefix.none : Prefix := ⟨0, 0, 0⟩

/-- The prefix of a bundle: two bytes before the inner instruction. -/
def Prefix.ofBank (p : BankPrefix) : Prefix := ⟨2, p.aa, p.bb⟩

/-- A location (rule R98). -/
inductive Loc where
  | reg (r : RegName)
  | mem (a : Addr)
  | imm (v : QWord)
deriving DecidableEq, Repr

/-- A location with the state after the side effect of forming it (rule R98). -/
structure Located where
  loc : Loc
  st : State
deriving DecidableEq, Repr

/-- The index register of a brief extension word (rule R94): a data or an address register. -/
def Brief.reg (e : Brief) : RegName := if e.da then .a e.xn else .d (e.xn.setWidth 5)

/-- `(wl ? X.l : sext_16(X.w)) * 2^scale + sext_8(d8)` (rule R94). -/
def indexOffset (e : Brief) (s : State) : Addr :=
  let x := s.long (Brief.reg e)
  let v := if e.wl then x else (x.extractLsb' 0 16).signExtend 32
  (v <<< e.scale.toNat) + e.d8.signExtend 32

/-- The `step` of (An)+ and -(An): the operand's size, 2 for a byte and A7 (rule R92, D49). -/
def eaStep (sz : Size) (n : Reg3) : Nat := if sz = .b ∧ n = 7 then 2 else sz.bytes

/-- `EA(mode, reg, size)`: the location, with the side effects of modes 011 and 100 (rules R92, R98). `ext` is
the address of its first extension word, `xx` the BANK field that extends a data register (rule R99). -/
def locate (sz : Size) (ext : Addr) (xx : BitVec 2) (ea : Ea) (s : State) : Located :=
  match ea with
  | .dn n => ⟨.reg (.d (banked xx n)), s⟩
  | .an n => ⟨.reg (.a n), s⟩
  | .ind n => ⟨.mem (s.long (.a n)), s⟩
  | .postinc n => ⟨.mem (s.long (.a n)), s.setLong (.a n) (s.long (.a n) + BitVec.ofNat 32 (eaStep sz n))⟩
  | .predec n =>
    let a := s.long (.a n) - BitVec.ofNat 32 (eaStep sz n)
    ⟨.mem a, s.setLong (.a n) a⟩
  | .disp n d16 => ⟨.mem (s.long (.a n) + d16.signExtend 32), s⟩
  | .index n e => ⟨.mem (s.long (.a n) + indexOffset e s), s⟩
  | .absW w => ⟨.mem (w.signExtend 32), s⟩
  | .absL l => ⟨.mem l, s⟩
  | .pcDisp d16 => ⟨.mem (ext + d16.signExtend 32), s⟩
  | .pcIndex e => ⟨.mem (ext + indexOffset e s), s⟩
  | .imm v => ⟨.imm v, s⟩

/-- The base register of a `<vea>` (rule R103). -/
def baseReg : Base → RegName
  | .a n => .a n
  | .b n => .b n

/-- `VEA(A, mode, reg)`: as the `<ea>` with the operand size 8, base registers A or B, and `#imm.W` repeated
four times (rules R103, R104, R223). -/
def locateVea (ext : Addr) (vea : Vea) (s : State) : Located :=
  match vea with
  | .reg k => ⟨.reg (.d k), s⟩
  | .ind r => ⟨.mem (s.long (baseReg r)), s⟩
  | .postinc r => ⟨.mem (s.long (baseReg r)), s.setLong (baseReg r) (s.long (baseReg r) + 8)⟩
  | .predec r =>
    let a := s.long (baseReg r) - 8
    ⟨.mem a, s.setLong (baseReg r) a⟩
  | .disp r d16 => ⟨.mem (s.long (baseReg r) + d16.signExtend 32), s⟩
  | .index r e => ⟨.mem (s.long (baseReg r) + indexOffset e s), s⟩
  | .absW w => ⟨.mem (w.signExtend 32), s⟩
  | .absL l => ⟨.mem l, s⟩
  | .pcDisp d16 => ⟨.mem (ext + d16.signExtend 32), s⟩
  | .pcIndex e => ⟨.mem (ext + indexOffset e s), s⟩
  | .immQ v => ⟨.imm v, s⟩
  | .immW w => ⟨.imm (w ++ w ++ w ++ w), s⟩

/-- `ReadLoc(loc, n)`: the low `n` bytes, zero-extended (rule R98). -/
def readLoc (sz : Size) (l : Located) : Res QWord :=
  match l.loc with
  | .reg r => .next (lowBytes sz (l.st.quad r))
  | .mem a => readMem sz a l.st
  | .imm v => .next (lowBytes sz v)

/-- `WriteLoc(loc, n, v)`; writing to an immediate is refused (rule R98). -/
def writeLoc (sz : Size) (l : Located) (v : QWord) : Res State :=
  match l.loc with
  | .reg r => .next (l.st.setPart sz r v)
  | .mem a => writeMem sz a v l.st
  | .imm _ => .refused .operand

/-- The address of a location that must be memory (rules R98, R155, R195). -/
def memAddr (l : Located) : Res Addr :=
  match l.loc with
  | .mem a => .next a
  | .reg _ => .refused .operand
  | .imm _ => .refused .operand

/-- A masked store through a `<vea>`: a register takes the whole value, memory the selected bytes
(rules R69, R105, R294 to R299). -/
def writeMasked (l : Located) (v : QWord) (bs : List (Option Byte)) : Res State :=
  match l.loc with
  | .reg r => .next (l.st.setQuad r v)
  | .mem a => storeBytes a bs l.st
  | .imm _ => .refused .operand

/-- Bytes of an `<ea>`'s extension words (rule R92). -/
def eaBytes (sz : Size) (ea : Ea) : Nat := 2 * ea.extWords sz

/-- Bytes of an AMMX instruction: two words and the `<vea>`'s extension words (rule R102). -/
def ammxBytes (vea : Vea) : Nat := 4 + 2 * vea.extWords

/-- The `<vea>` of the instruction at `pc`: its extension words follow two words (rule R102). -/
def veaAt (vea : Vea) (s : State) : Located := locateVea (s.pc + 4) vea s

end Sys2Proof.Machine
end

