-- ==== Sys2Proof/Machine/Lanes.lean ====
section
/-!
DEFINITION. The lanes of a 64-bit vector, numbered from the most significant end (rule R221), the saturations
of rule R10, and the lane-wise functions of the AMMX pages (42_ammx_1.md, 43_ammx_2.md).
-/

namespace Sys2Proof.Machine

/-- `B(x, i)` (rule R221). -/
def laneB (x : QWord) (i : Nat) : Byte := x.extractLsb' (56 - 8 * i) 8

/-- `W(x, i)` (rule R221). -/
def laneW (x : QWord) (i : Nat) : Word := x.extractLsb' (48 - 16 * i) 16

/-- `L(x, i)` (rule R221). -/
def laneL (x : QWord) (i : Nat) : Long := x.extractLsb' (32 - 32 * i) 32

/-- The vector whose byte lanes are `f 0 .. f 7`. -/
def ofBytes (f : Nat → Byte) : QWord := f 0 ++ f 1 ++ f 2 ++ f 3 ++ f 4 ++ f 5 ++ f 6 ++ f 7

/-- The vector whose word lanes are `f 0 .. f 3`. -/
def ofWords (f : Nat → Word) : QWord := f 0 ++ f 1 ++ f 2 ++ f 3

/-- The vector whose long lanes are `f 0`, `f 1`. -/
def ofLongs (f : Nat → Long) : QWord := f 0 ++ f 1

/-- A function of two bytes in each byte lane (rule R221). -/
def zipB (f : Byte → Byte → Byte) (a b : QWord) : QWord := ofBytes fun i => f (laneB a i) (laneB b i)

/-- A function of two words in each word lane (rule R221). -/
def zipW (f : Word → Word → Word) (a b : QWord) : QWord := ofWords fun i => f (laneW a i) (laneW b i)

/-- `sat_u8(v)` (rule R10). -/
def satU8 (v : Int) : Byte := if v < 0 then 0 else if 255 < v then 255 else BitVec.ofInt 8 v

/-- `sat_u16(v)` (rule R10). -/
def satU16 (v : Int) : Word := if v < 0 then 0 else if 65535 < v then 65535 else BitVec.ofInt 16 v

/-- True is all ones in the lane (rule R254, D25). -/
def maskB (p : Bool) : Byte := if p then 0xFF else 0

def maskW (p : Bool) : Word := if p then 0xFFFF else 0

/-- `(a + b + 1) >> 1` on the nine-bit sum (rule R252). -/
def avgB (a b : Byte) : Byte := BitVec.ofNat 8 ((a.toNat + b.toNat + 1) / 2)

/-- The product of two signed words as 32 bits (rule R280). -/
def product (a b : Word) : Long := BitVec.ofInt 32 (a.toInt * b.toInt)

/-- One channel of PMULA: `sat_u8(((alfa * b) >> 8) + a)`, or `b` when alfa is 255 (rule R285). -/
def fade (al pa pb : Byte) : Byte :=
  if al = 0xFF then pb else satU8 ((al.toNat * pb.toNat / 256 + pa.toNat : Nat) : Int)

/-- One pixel of PMULA (rule R285). -/
def fadePixel (pa pb : Long) : Long :=
  let al := pa.extractLsb' 24 8
  0#8 ++ fade al (pa.extractLsb' 16 8) (pb.extractLsb' 16 8) ++ fade al (pa.extractLsb' 8 8) (pb.extractLsb' 8 8) ++
    fade al (pa.extractLsb' 0 8) (pb.extractLsb' 0 8)

/-- PMULA (rule R285). -/
def pmulaVec (a b : QWord) : QWord := ofLongs fun i => fadePixel (laneL a i) (laneL b i)

/-- ARGB to RGB565 by truncation (rule R241, D24). -/
def pack565 (p : Long) : Word := p.extractLsb' 19 5 ++ p.extractLsb' 10 6 ++ p.extractLsb' 3 5

/-- PACK3216: b's pixels first (rule R241). -/
def pack3216Vec (x y : QWord) : QWord :=
  pack565 (laneL x 0) ++ pack565 (laneL x 1) ++ pack565 (laneL y 0) ++ pack565 (laneL y 1)

/-- PACKUSWB (rule R242). -/
def packuswbVec (x y : QWord) : QWord :=
  ofBytes fun i => if i < 4 then satU8 (laneW x i).toInt else satU8 (laneW y (i - 4)).toInt

/-- RGB565 to ARGB with alpha 0, each channel widened by its top bits (rule R306, D24). -/
def unpack565 (w : Word) : Long :=
  0#8 ++ w.extractLsb' 11 5 ++ w.extractLsb' 13 3 ++ w.extractLsb' 5 6 ++ w.extractLsb' 9 2 ++
    w.extractLsb' 0 5 ++ w.extractLsb' 2 3

/-- C2P: bit `8n+j` of the result is bit `8j+n` of the operand (rule R231). -/
def c2pVec (a : QWord) : QWord :=
  let row (n : Nat) : Byte :=
    BitVec.ofBool (a.getLsbD (56 + n)) ++ BitVec.ofBool (a.getLsbD (48 + n)) ++ BitVec.ofBool (a.getLsbD (40 + n)) ++
    BitVec.ofBool (a.getLsbD (32 + n)) ++ BitVec.ofBool (a.getLsbD (24 + n)) ++ BitVec.ofBool (a.getLsbD (16 + n)) ++
    BitVec.ofBool (a.getLsbD (8 + n)) ++ BitVec.ofBool (a.getLsbD n)
  row 7 ++ row 6 ++ row 5 ++ row 4 ++ row 3 ++ row 2 ++ row 1 ++ row 0

/-- The 64 copies of one bit. -/
def fill (p : Bool) : QWord := if p then BitVec.allOnes 64 else 0

/-- MINTERM: bit `i` is entry `4 a[i] + 2 b[i] + c[i]` of the table (rule R239). -/
def mintermVec (a b c : QWord) (t : Byte) : QWord :=
  (fill (t.getLsbD 0) &&& (~~~a &&& ~~~b &&& ~~~c)) ||| (fill (t.getLsbD 1) &&& (~~~a &&& ~~~b &&& c)) |||
  (fill (t.getLsbD 2) &&& (~~~a &&& b &&& ~~~c)) ||| (fill (t.getLsbD 3) &&& (~~~a &&& b &&& c)) |||
  (fill (t.getLsbD 4) &&& (a &&& ~~~b &&& ~~~c)) ||| (fill (t.getLsbD 5) &&& (a &&& ~~~b &&& c)) |||
  (fill (t.getLsbD 6) &&& (a &&& b &&& ~~~c)) ||| (fill (t.getLsbD 7) &&& (a &&& b &&& c))

/-- VPERM: the top bit of each position picks the register, the low three the byte (rule R310). -/
def vpermVec (x y : QWord) (sel : Long) : QWord :=
  ofBytes fun i =>
    let p : BitVec 4 := sel.extractLsb' (28 - 4 * i) 4
    laneB (if p.getLsbD 3 then y else x) (p.extractLsb' 0 3).toNat

/-- The column `i` of the 4 by 4 matrix of words whose rows are the sources (rules R303, R304). -/
def column (i : Nat) (s0 s1 s2 s3 : QWord) : QWord := laneW s0 i ++ laneW s1 i ++ laneW s2 i ++ laneW s3 i

/-- The bytes of a vector that are stored where the predicate holds (rule R69). -/
def maskedBytes (x : QWord) (p : Nat → Bool) : List (Option Byte) :=
  (List.range 8).map fun i => if p i then some (laneB x i) else none

/-- Which bytes STOREC stores: the first `count`, a signed long (rule R294, D23). -/
def countMask (c : Long) (i : Nat) : Bool := decide ((i : Int) < c.toInt)

/-- Which bytes STOREILM stores: lane `i`'s lowest bit is 0 (rule R297). -/
def lsbMask (m : QWord) (i : Nat) : Bool := !(laneB m i).getLsbD 0

/-- Which bytes STOREM stores: mask bit `7 - i`, or `i` the other way round (rule R298, D22). -/
def bitMask (order : StoremOrder) (m : Byte) (i : Nat) : Bool :=
  match order with
  | .msbFirst => m.getLsbD (7 - i)
  | .lsbFirst => m.getLsbD i

/-- Which bytes STOREM3 stores, by its mode (rule R299). -/
def gfxMask (mode : BitVec 2) (x : QWord) (i : Nat) : Bool :=
  match mode with
  | 0#2 => (laneL x (i / 4)).msb
  | 1#2 => laneB x i != 0
  | 2#2 => laneW x (i / 2) != 0xF81F
  | _ => !(laneW x (i / 2)).msb

/-- The bytes of a long reversed, or of a word swapped (rule R199, D37). -/
def revBytes (sz : Size) (v : QWord) : QWord :=
  match sz with
  | .w => (v.extractLsb' 0 8 ++ v.extractLsb' 8 8).setWidth 64
  | .l => (v.extractLsb' 0 8 ++ v.extractLsb' 8 8 ++ v.extractLsb' 16 8 ++ v.extractLsb' 24 8).setWidth 64
  | .b => v
  | .q => v

/-- Byte `i` of the eight bytes of two longs, from the most significant (PERM, rule R208). -/
def permByte (a b : Long) (i : BitVec 3) : Byte := laneB (a ++ b) i.toNat

/-- PERM (rule R208, D21). -/
def permLong (a b : Long) (pos0 pos1 pos2 pos3 : BitVec 3) : Long :=
  permByte a b pos0 ++ permByte a b pos1 ++ permByte a b pos2 ++ permByte a b pos3

end Sys2Proof.Machine
end

