-- ==== Sys2Proof/Machine/IntegerArith.lean ====
section
/-!
DEFINITION. ADDIW, ADDQ and SUBQ to a B register, CMP, CMPIW, CLR, EXTUB, EXTUW, PERM (40_integer_1.md,
41_integer_2.md sections 12 and 13). An operation that a BANK bundle can hold takes the prefix.
-/

namespace Sys2Proof.Machine

/-- The end of an instruction of `n` bytes that does not branch: `pc <- next` (rules R13, R29). -/
def finish (n : Nat) (r : Res State) : Res State := andThen r fun s => .next (s.advance n)

/-- A Line-A instruction first checks the apollo-bit (rules R130, R353). -/
def lineA (s : State) (r : Res State) : Res State := if s.sr.apollo then r else raise .lineA s.pc s

/-- The low long of a value. -/
def low32 (v : QWord) : Long := v.extractLsb' 0 32

/-- A long as a value, zero-extended. -/
def zext (v : Long) : QWord := v.setWidth 64

/-- The 3-bit data of ADDQ and SUBQ: 000 is 8 (rule R132). -/
def quickData (d : BitVec 3) : Long := if d = 0 then 8 else d.setWidth 32

/-- ADDIW.L #imm,`<ea>` (rule R131). -/
def execAddiw (imm : Word) (ea : Ea) (s : State) : Res State :=
  let l := locate .l (s.pc + 4) 0 ea s
  andThen (readLoc .l l) fun d =>
    let src := imm.signExtend 32
    finish (4 + eaBytes .l ea) <|
      andThen (writeLoc .l l (zext (src + low32 d))) fun t => .next (t.setSr (s.sr.added src (low32 d)))

/-- ADDQ.L #data,Bn (rule R132). -/
def execAddqBn (data : BitVec 3) (bn : Reg3) (s : State) : Res State :=
  let q := quickData data
  let d := s.long (.b bn)
  finish 2 (.next ((s.setLong (.b bn) (d + q)).setSr (if s.cfg.addqBnSetsCc then s.sr.added q d else s.sr)))

/-- SUBQ.L #data,Bn (rule R210). -/
def execSubqBn (data : BitVec 3) (bn : Reg3) (s : State) : Res State :=
  let q := quickData data
  let d := s.long (.b bn)
  finish 2 (.next ((s.setLong (.b bn) (d - q)).setSr (if s.cfg.addqBnSetsCc then s.sr.subtracted q d else s.sr)))

/-- CMP.L Bn,Dn (rule R148). -/
def execCmpBnDn (bn dn : Reg3) (s : State) : Res State :=
  finish 2 (.next (s.setSr (s.sr.compared (s.long (.b bn)) (s.long (.d (banked 0 dn))))))

/-- CMPIW.L #imm,`<ea>` (rule R149). -/
def execCmpiw (imm : Word) (ea : Ea) (s : State) : Res State :=
  let l := locate .l (s.pc + 4) 0 ea s
  finish (4 + eaBytes .l ea) <|
    andThen (readLoc .l l) fun d => .next (l.st.setSr (s.sr.compared (imm.signExtend 32) (low32 d)))

/-- CLR of a size: the flags `- 0 1 0 0` (rules R146, R147). -/
def clear (sz : Size) (p : Prefix) (ea : Ea) (s : State) : Res State :=
  finish (p.bytes + 2 + eaBytes sz ea) <|
    andThen (writeLoc sz (locate sz (s.pc + BitVec.ofNat 32 (p.bytes + 2)) p.bb ea s) 0) fun t =>
      .next (t.setSr (s.sr.moved false true))

/-- CLR.Q `<ea>` (rule R146). -/
def execClrQ (ea : Ea) (s : State) : Res State := lineA s (clear .q .none ea s)

/-- CLR.B `<ea>` (rule R147). -/
def execClrB (ea : Ea) (s : State) : Res State := clear .b .none ea s

/-- CLR.W `<ea>` (rule R147). -/
def execClrW (ea : Ea) (s : State) : Res State := clear .w .none ea s

/-- CLR.L `<ea>` (rule R147). -/
def execClrL (ea : Ea) (s : State) : Res State := clear .l .none ea s

/-- EXTUB.L and EXTUW.L: the low byte or word zero-extended to a long, flags `- 0 * 0 0` (rules R152, R153). -/
def extendUnsigned (sz : Size) (p : Prefix) (dn : Reg3) (s : State) : Res State :=
  let r := low32 (lowBytes sz (s.quad (.d (banked p.bb dn))))
  finish (p.bytes + 2) (.next ((s.setLong (.d (banked p.bb dn)) r).setSr (s.sr.moved false (r == 0))))

/-- EXTUB.L Dn (rule R152). -/
def execExtub (dn : Reg3) (s : State) : Res State := extendUnsigned .b .none dn s

/-- EXTUW.L Dn (rule R153). -/
def execExtuw (dn : Reg3) (s : State) : Res State := extendUnsigned .w .none dn s

/-- A register of PERM: `R5[XX : rrr]` when the BANK field is not 00, whatever the top bit (rule R208). -/
def permReg (xx : BitVec 2) (r : Reg4) : RegName := if xx = 0 then rn4 r else .d (banked xx (r.extractLsb' 0 3))

/-- PERM #n,Ra,Rb (rule R208). -/
def permute (p : Prefix) (a b : Reg4) (pos0 pos1 pos2 pos3 : BitVec 3) (s : State) : Res State :=
  let ra := permReg p.aa a
  let rb := permReg p.bb b
  finish (p.bytes + 4) (.next (s.setLong rb (permLong (s.long ra) (s.long rb) pos0 pos1 pos2 pos3)))

/-- PERM #n,Ra,Rb (rule R208). -/
def execPerm (a b : Reg4) (pos0 pos1 pos2 pos3 : BitVec 3) (s : State) : Res State :=
  permute .none a b pos0 pos1 pos2 pos3 s

end Sys2Proof.Machine
end

