-- ==== Sys2Proof/Machine/AmmxArith.lean ====
section
/-!
DEFINITION. The AMMX instructions that compute lane by lane into a register: classes L, R4 and P
(rules R105, R220 to R223; 42_ammx_1.md, 43_ammx_2.md). No flag changes (rule R220).
-/

namespace Sys2Proof.Machine

/-- A class L operation: `a` is the `<vea>` operand, `bv` is `R5[B:b]`, the result goes to all of `R5[D:d]`
(rule R105). -/
def classL (f : QWord → QWord → QWord) (vea : Vea) (b d : Reg5) (s : State) : Res State :=
  let l := veaAt vea s
  finish (ammxBytes vea) <|
    andThen (readLoc .q l) fun a => .next (l.st.setQuad (.d d) (f a (l.st.quad (.d b))))

/-- A class L operation with the pair `d:d+1` as destination (rules R105, R222). -/
def classLPair (f g : QWord → QWord → QWord) (vea : Vea) (b d : Reg5) (s : State) : Res State :=
  let l := veaAt vea s
  finish (ammxBytes vea) <|
    andThen (readLoc .q l) fun a =>
      let bv := l.st.quad (.d b)
      .next ((l.st.setQuad (.d d) (f a bv)).setQuad (.d (d + 1)) (g a bv))

/-- BFLYB (rule R226). -/
def execBflyb (vea : Vea) (b d : Reg5) (s : State) : Res State :=
  classLPair (zipB fun a b => b + a) (zipB fun a b => b - a) vea b d s

/-- BFLYW (rule R227). -/
def execBflyw (vea : Vea) (b d : Reg5) (s : State) : Res State :=
  classLPair (zipW fun a b => b + a) (zipW fun a b => b - a) vea b d s

/-- BSEL: masked bits come from the `<vea>`, the others stay as they are in `d` (rule R229). -/
def execBsel (vea : Vea) (b d : Reg5) (s : State) : Res State :=
  let l := veaAt vea s
  finish (ammxBytes vea) <|
    andThen (readLoc .q l) fun a =>
      let m := l.st.quad (.d b)
      .next (l.st.setQuad (.d d) ((a &&& m) ||| (l.st.quad (.d d) &&& ~~~m)))

/-- C2P (rule R231). -/
def execC2p (vea : Vea) (d : Reg5) (s : State) : Res State := classL (fun a _ => c2pVec a) vea 0 d s

/-- LSLQ: the count is the `<vea>` operand modulo 64 (rule R236). -/
def execLslq (vea : Vea) (b d : Reg5) (s : State) : Res State :=
  classL (fun a b => b <<< (a.toNat % 64)) vea b d s

/-- LSRQ (rule R237). -/
def execLsrq (vea : Vea) (b d : Reg5) (s : State) : Res State :=
  classL (fun a b => b >>> (a.toNat % 64)) vea b d s

/-- The register `i` of the group of four of class R4: `R5[A:aa:00]` and the three after it (rule R105). -/
def groupReg (grp : BitVec 3) (i : BitVec 2) : RegName := .d (grp ++ i)

/-- MINTERM (rule R239). -/
def execMinterm (grp : BitVec 3) (d : Reg5) (s : State) : Res State :=
  finish 4 <| .next <| s.setQuad (.d d) <|
    mintermVec (s.quad (groupReg grp 0)) (s.quad (groupReg grp 1)) (s.quad (groupReg grp 2))
      ((s.quad (groupReg grp 3)).extractLsb' 0 8)

/-- TRANSHI and TRANSLO: two columns of the matrix whose rows are the group (rules R303, R304). -/
def transpose (i j : Nat) (grp : BitVec 3) (d : Reg5) (s : State) : Res State :=
  let col (i : Nat) : QWord :=
    column i (s.quad (groupReg grp 0)) (s.quad (groupReg grp 1)) (s.quad (groupReg grp 2)) (s.quad (groupReg grp 3))
  finish 4 (.next ((s.setQuad (.d d) (col i)).setQuad (.d (d + 1)) (col j)))

/-- TRANSHI (rule R303). -/
def execTranshi (grp : BitVec 3) (d : Reg5) (s : State) : Res State := transpose 0 1 grp d s

/-- TRANSLO (rule R304). -/
def execTranslo (grp : BitVec 3) (d : Reg5) (s : State) : Res State := transpose 2 3 grp d s

/-- UNPACK1632 (rule R306). -/
def execUnpack1632 (vea : Vea) (d : Reg5) (s : State) : Res State :=
  classLPair (fun a _ => unpack565 (laneW a 0) ++ unpack565 (laneW a 1))
    (fun a _ => unpack565 (laneW a 2) ++ unpack565 (laneW a 3)) vea 0 d s

/-- VPERM (rule R310). -/
def execVperm (a b d : Reg5) (sel : Long) (s : State) : Res State :=
  finish 8 (.next (s.setQuad (.d d) (vpermVec (s.quad (.d a)) (s.quad (.d b)) sel)))

/-- PADDB (rule R244). -/
def execPaddb (vea : Vea) (b d : Reg5) (s : State) : Res State :=
  classL (zipB fun a b => a + b) vea b d s

/-- PADDW (rule R245). -/
def execPaddw (vea : Vea) (b d : Reg5) (s : State) : Res State :=
  classL (zipW fun a b => a + b) vea b d s

/-- PADDUSB (rule R246). -/
def execPaddusb (vea : Vea) (b d : Reg5) (s : State) : Res State :=
  classL (zipB fun a b => satU8 ((a.toNat + b.toNat : Nat) : Int)) vea b d s

/-- PADDUSW (rule R247). -/
def execPaddusw (vea : Vea) (b d : Reg5) (s : State) : Res State :=
  classL (zipW fun a b => satU16 ((a.toNat + b.toNat : Nat) : Int)) vea b d s

/-- PAND (rule R249). -/
def execPand (vea : Vea) (b d : Reg5) (s : State) : Res State :=
  classL (fun a b => a &&& b) vea b d s

/-- PANDN (rule R250). -/
def execPandn (vea : Vea) (b d : Reg5) (s : State) : Res State :=
  classL (fun a b => ~~~a &&& b) vea b d s

/-- PAVGB (rule R252). -/
def execPavgb (vea : Vea) (b d : Reg5) (s : State) : Res State :=
  classL (zipB avgB) vea b d s

/-- PCMPEQB (rule R255). -/
def execPcmpeqb (vea : Vea) (b d : Reg5) (s : State) : Res State :=
  classL (zipB fun a b => maskB (b == a)) vea b d s

/-- PCMPHIB (rule R256). -/
def execPcmphib (vea : Vea) (b d : Reg5) (s : State) : Res State :=
  classL (zipB fun a b => maskB (decide (a.toNat < b.toNat))) vea b d s

/-- PCMPGEB (rule R257). -/
def execPcmpgeb (vea : Vea) (b d : Reg5) (s : State) : Res State :=
  classL (zipB fun a b => maskB (decide (a.toInt ≤ b.toInt))) vea b d s

/-- PCMPGTB (rule R258). -/
def execPcmpgtb (vea : Vea) (b d : Reg5) (s : State) : Res State :=
  classL (zipB fun a b => maskB (decide (a.toInt < b.toInt))) vea b d s

/-- PCMPEQW (rule R259). -/
def execPcmpeqw (vea : Vea) (b d : Reg5) (s : State) : Res State :=
  classL (zipW fun a b => maskW (b == a)) vea b d s

/-- PCMPHIW (rule R260). -/
def execPcmphiw (vea : Vea) (b d : Reg5) (s : State) : Res State :=
  classL (zipW fun a b => maskW (decide (a.toNat < b.toNat))) vea b d s

/-- PCMPGEW (rule R261). -/
def execPcmpgew (vea : Vea) (b d : Reg5) (s : State) : Res State :=
  classL (zipW fun a b => maskW (decide (a.toInt ≤ b.toInt))) vea b d s

/-- PCMPGTW (rule R262). -/
def execPcmpgtw (vea : Vea) (b d : Reg5) (s : State) : Res State :=
  classL (zipW fun a b => maskW (decide (a.toInt < b.toInt))) vea b d s

/-- PEOR (rule R265). -/
def execPeor (vea : Vea) (b d : Reg5) (s : State) : Res State :=
  classL (fun a b => a ^^^ b) vea b d s

/-- PMAXSB (rule R270). -/
def execPmaxsb (vea : Vea) (b d : Reg5) (s : State) : Res State :=
  classL (zipB fun a b => if b.toInt ≤ a.toInt then a else b) vea b d s

/-- PMAXUB (rule R271). -/
def execPmaxub (vea : Vea) (b d : Reg5) (s : State) : Res State :=
  classL (zipB fun a b => if b.toNat ≤ a.toNat then a else b) vea b d s

/-- PMAXSW (rule R272). -/
def execPmaxsw (vea : Vea) (b d : Reg5) (s : State) : Res State :=
  classL (zipW fun a b => if b.toInt ≤ a.toInt then a else b) vea b d s

/-- PMAXUW (rule R273). -/
def execPmaxuw (vea : Vea) (b d : Reg5) (s : State) : Res State :=
  classL (zipW fun a b => if b.toNat ≤ a.toNat then a else b) vea b d s

/-- PMINSB (rule R275). -/
def execPminsb (vea : Vea) (b d : Reg5) (s : State) : Res State :=
  classL (zipB fun a b => if a.toInt ≤ b.toInt then a else b) vea b d s

/-- PMINUB (rule R276). -/
def execPminub (vea : Vea) (b d : Reg5) (s : State) : Res State :=
  classL (zipB fun a b => if a.toNat ≤ b.toNat then a else b) vea b d s

/-- PMINSW (rule R277). -/
def execPminsw (vea : Vea) (b d : Reg5) (s : State) : Res State :=
  classL (zipW fun a b => if a.toInt ≤ b.toInt then a else b) vea b d s

/-- PMINUW (rule R278). -/
def execPminuw (vea : Vea) (b d : Reg5) (s : State) : Res State :=
  classL (zipW fun a b => if a.toNat ≤ b.toNat then a else b) vea b d s

/-- PMUL88 (rule R281). -/
def execPmul88 (vea : Vea) (b d : Reg5) (s : State) : Res State :=
  classL (zipW fun a b => (product a b).extractLsb' 8 16) vea b d s

/-- PMULH (rule R282). -/
def execPmulh (vea : Vea) (b d : Reg5) (s : State) : Res State :=
  classL (zipW fun a b => (product a b).extractLsb' 16 16) vea b d s

/-- PMULL (rule R283). -/
def execPmull (vea : Vea) (b d : Reg5) (s : State) : Res State :=
  classL (zipW fun a b => (product a b).extractLsb' 0 16) vea b d s

/-- PMULA (rule R285). -/
def execPmula (vea : Vea) (b d : Reg5) (s : State) : Res State :=
  classL (pmulaVec) vea b d s

/-- POR (rule R287). -/
def execPor (vea : Vea) (b d : Reg5) (s : State) : Res State :=
  classL (fun a b => a ||| b) vea b d s

/-- PSUBB (rule R289). -/
def execPsubb (vea : Vea) (b d : Reg5) (s : State) : Res State :=
  classL (zipB fun a b => b - a) vea b d s

/-- PSUBW (rule R290). -/
def execPsubw (vea : Vea) (b d : Reg5) (s : State) : Res State :=
  classL (zipW fun a b => b - a) vea b d s

/-- PSUBUSB (rule R291). -/
def execPsubusb (vea : Vea) (b d : Reg5) (s : State) : Res State :=
  classL (zipB fun a b => satU8 ((b.toNat : Int) - a.toNat)) vea b d s

/-- PSUBUSW (rule R292). -/
def execPsubusw (vea : Vea) (b d : Reg5) (s : State) : Res State :=
  classL (zipW fun a b => satU16 ((b.toNat : Int) - a.toNat)) vea b d s

end Sys2Proof.Machine
end

