-- ==== Sys2Proof/Machine/AmmxMove.lean ====
section
/-!
DEFINITION. The AMMX loads and stores: LOAD, LOADI, and class S (rules R105, R233, R234, R241, R242, R293 to
R299), and TEX, to which the spec gives no semantics (rules R300, R301).
-/

namespace Sys2Proof.Machine

/-- LOAD (rule R233). -/
def execLoad (vea : Vea) (d : Reg5) (s : State) : Res State := classL (fun a _ => a) vea 0 d s

/-- LOADI: the destination is `R6[R5[D:d] mod 64]` (rules R27, R234). -/
def execLoadi (vea : Vea) (d : Reg5) (s : State) : Res State :=
  match r6 ((s.quad (.d d)).extractLsb' 0 6) with
  | none => .refused .indirectIndex
  | some r =>
    let l := veaAt vea s
    finish (ammxBytes vea) (andThen (readLoc .q l) fun v => .next (l.st.setQuad r v))

/-- A class S operation: the value, computed from the registers as they were, to the `<vea>` (rule R105). -/
def classS (v : QWord) (vea : Vea) (s : State) : Res State :=
  finish (ammxBytes vea) (writeLoc .q (veaAt vea s) v)

/-- A masked class S operation (rules R69, R105). -/
def classSMasked (v : QWord) (p : Nat → Bool) (vea : Vea) (s : State) : Res State :=
  finish (ammxBytes vea) (writeMasked (veaAt vea s) v (maskedBytes v p))

/-- PACK3216 (rule R241). -/
def execPack3216 (b d : Reg5) (vea : Vea) (s : State) : Res State :=
  classS (pack3216Vec (s.quad (.d b)) (s.quad (.d d))) vea s

/-- PACKUSWB (rule R242). -/
def execPackuswb (b d : Reg5) (vea : Vea) (s : State) : Res State :=
  classS (packuswbVec (s.quad (.d b)) (s.quad (.d d))) vea s

/-- STORE (rule R293). -/
def execStore (b : Reg5) (vea : Vea) (s : State) : Res State := classS (s.quad (.d b)) vea s

/-- STOREC (rule R294). -/
def execStorec (b d : Reg5) (vea : Vea) (s : State) : Res State :=
  classSMasked (s.quad (.d b)) (countMask (s.long (.d d))) vea s

/-- STOREI: the source is `R6[R5[B:b] mod 64]` (rules R27, R295). -/
def execStorei (b : Reg5) (vea : Vea) (s : State) : Res State :=
  match r6 ((s.quad (.d b)).extractLsb' 0 6) with
  | none => .refused .indirectIndex
  | some r => classS (s.quad r) vea s

/-- STOREILM (rule R297). -/
def execStoreilm (b d : Reg5) (vea : Vea) (s : State) : Res State :=
  classSMasked (s.quad (.d b)) (lsbMask (s.quad (.d d))) vea s

/-- STOREM (rule R298). -/
def execStorem (b d : Reg5) (vea : Vea) (s : State) : Res State :=
  classSMasked (s.quad (.d b)) (bitMask s.cfg.storemOrder ((s.quad (.d d)).extractLsb' 0 8)) vea s

/-- STOREM3 (rule R299), under `STOREM3_OPCODE`. -/
def execStorem3 (b : Reg5) (mode _xx : BitVec 2) (vea : Vea) (s : State) : Res State :=
  classSMasked (s.quad (.d b)) (gfxMask mode (s.quad (.d b))) vea s

/-- TEX: refused, the spec gives its encoding and no semantics (rule R300, D42). -/
def execTex (_an _au _av : Reg3) (_d : BitVec 4) (_s1 : BitVec 2) (_s2 : Bool) (_ttt : BitVec 3)
    (_s3 : BitVec 2) (_s : State) : Res State := .refused .texNoSemantics

/-- TEX.b: refused with TEX (rule R301, D42). -/
def execTexB (_an _au _av : Reg3) (_d _dm : BitVec 4) (_s : State) : Res State := .refused .texNoSemantics

end Sys2Proof.Machine
end

