-- ==== Sys2Proof/Machine/Branches.lean ====
section
/-!
DEFINITION. The branches: the extended short branches (rules R141 to R145) and DBcc with a long counter (rule
R150).
-/

namespace Sys2Proof.Machine

/-- The displacement of an 8-bit branch: even as it is, odd in the s+ ranges; `$00` and `$FF` are the legacy
word and long forms (rule R141, D12). -/
def branchDisp (d8 : Byte) : Option Int :=
  if d8 = 0 ∨ d8 = 0xFF then none
  else if d8.getLsbD 0 then some (if 0 < d8.toInt then d8.toInt + 127 else d8.toInt - 129)
  else some d8.toInt

/-- `trunc_32(ia + 2 + disp)` (rule R141). -/
def branchTarget (ia : Addr) (disp : Int) : Addr := ia + 2 + BitVec.ofInt 32 disp

/-- Bcc (rule R142). -/
def branchIf (cc : BitVec 4) (d8 : Byte) (s : State) : Res State :=
  match branchDisp d8 with
  | none => .refused .legacyBranch
  | some disp => .next (s.setPc (if s.sr.cond cc then branchTarget s.pc disp else s.pc + 2))

/-- BHI.S+ (rules R142, R34). -/
def execBhi (d8 : Byte) (s : State) : Res State := branchIf 0x2 d8 s
/-- BLS.S+ (rules R142, R34). -/
def execBls (d8 : Byte) (s : State) : Res State := branchIf 0x3 d8 s
/-- BCC.S+ (rules R142, R34). -/
def execBcc (d8 : Byte) (s : State) : Res State := branchIf 0x4 d8 s
/-- BCS.S+ (rules R142, R34). -/
def execBcs (d8 : Byte) (s : State) : Res State := branchIf 0x5 d8 s
/-- BNE.S+ (rules R142, R34). -/
def execBne (d8 : Byte) (s : State) : Res State := branchIf 0x6 d8 s
/-- BEQ.S+ (rules R142, R34). -/
def execBeq (d8 : Byte) (s : State) : Res State := branchIf 0x7 d8 s
/-- BVC.S+ (rules R142, R34). -/
def execBvc (d8 : Byte) (s : State) : Res State := branchIf 0x8 d8 s
/-- BVS.S+ (rules R142, R34). -/
def execBvs (d8 : Byte) (s : State) : Res State := branchIf 0x9 d8 s
/-- BPL.S+ (rules R142, R34). -/
def execBpl (d8 : Byte) (s : State) : Res State := branchIf 0xA d8 s
/-- BMI.S+ (rules R142, R34). -/
def execBmi (d8 : Byte) (s : State) : Res State := branchIf 0xB d8 s
/-- BGE.S+ (rules R142, R34). -/
def execBge (d8 : Byte) (s : State) : Res State := branchIf 0xC d8 s
/-- BLT.S+ (rules R142, R34). -/
def execBlt (d8 : Byte) (s : State) : Res State := branchIf 0xD d8 s
/-- BGT.S+ (rules R142, R34). -/
def execBgt (d8 : Byte) (s : State) : Res State := branchIf 0xE d8 s
/-- BLE.S+ (rules R142, R34). -/
def execBle (d8 : Byte) (s : State) : Res State := branchIf 0xF d8 s

/-- BRA.S+ (rule R143): condition 0000 is T (rule R34). -/
def execBra (d8 : Byte) (s : State) : Res State := branchIf 0x0 d8 s

/-- BSR.S+ (rule R145). -/
def execBsr (d8 : Byte) (s : State) : Res State :=
  match branchDisp d8 with
  | none => .refused .legacyBranch
  | some disp =>
    let sp := s.long (.a 7) - 4
    andThen (writeMem .l sp (zext (s.pc + 2)) (s.setLong (.a 7) sp)) fun t =>
      .next (t.setPc (branchTarget s.pc disp))

/-- The displacement of DBcc.L and FDBcc.L: the word with bit 0 cleared, sign-extended (rules R150, R323, D13). -/
def evenDisp (w : Word) : Addr := (w &&& 0xFFFE).signExtend 32

/-- The loop of DBcc.L and FDBcc.L: `Dn.l` counts down, and the branch is taken unless it was 0
(rules R150, R323). `base` is the address of the displacement word. -/
def countDown (base : Addr) (dn : Reg3) (disp : Word) (s : State) : State :=
  let c := s.long (.d (banked 0 dn)) - 1
  (s.setLong (.d (banked 0 dn)) c).setPc (if c = 0xFFFFFFFF then base + 2 else base + evenDisp disp)

/-- DBcc.L Dn,label (rule R150). -/
def execDbccL (cond : BitVec 4) (dn : Reg3) (disp : Word) (s : State) : Res State :=
  if s.sr.cond cond then .next (s.advance 4) else .next (countDown (s.pc + 2) dn disp s)

end Sys2Proof.Machine
end

