-- ==== Sys2Proof/Machine/FloatConv.lean ====
section
/-!
DEFINITION. The conversions of the floating-point pages: integers, IEEE 754 binary32 and binary64
(44_float.md rules R321, R325 to R330). A finite double is `(-1)^sign * mant * 2^scale`.
-/

namespace Sys2Proof.Machine

/-- A value of the double layout taken apart (rule R321). -/
def dblSign (x : QWord) : Bool := x.msb
def dblExp (x : QWord) : Nat := (x.extractLsb' 52 11).toNat
def dblFrac (x : QWord) : Nat := (x.extractLsb' 0 52).toNat

def isNaN (x : QWord) : Bool := dblExp x == 0x7FF && dblFrac x != 0
def isInf (x : QWord) : Bool := dblExp x == 0x7FF && dblFrac x == 0

/-- The significand of a finite double, the hidden one included. -/
def dblMant (x : QWord) : Nat := if dblExp x = 0 then dblFrac x else 2 ^ 52 + dblFrac x

/-- The power of two its significand is multiplied by. -/
def dblScale (x : QWord) : Int := (max (dblExp x) 1 : Nat) - 1075

/-- The double of a sign, biased exponent and fraction (rule R321). -/
def mkDbl (sign : Bool) (exp frac : Nat) : QWord :=
  BitVec.ofBool sign ++ BitVec.ofNat 11 exp ++ BitVec.ofNat 52 frac

/-- The double `(-1)^sign * m * 2^e`, for `m < 2^53` and a result in the normal range; `m = 0` is a zero. -/
def exactDbl (sign : Bool) (m : Nat) (e : Int) : QWord :=
  if m = 0 then mkDbl sign 0 0
  else
    let k := Nat.log2 m
    mkDbl sign (e + k + 1023).toNat (m * 2 ^ (52 - k) - 2 ^ 52)

/-- The double equal to an integer of at most 32 bits (rule R325). -/
def dblOfInt (v : Int) : QWord := exactDbl (v < 0) v.natAbs 0

/-- A fraction that is any value but zero: of a NaN whose fraction is unspecified (rules R325, R327). -/
def nanFrac (width : Nat) (free : QWord) : Nat :=
  let f := free.toNat % 2 ^ width
  if f = 0 then 1 else f

/-- The double equal to a binary32 value; a NaN gives a NaN of its sign with a free fraction (rule R325). -/
def dblOfSingle (v : Long) (free : QWord) : QWord :=
  let exp := (v.extractLsb' 23 8).toNat
  let frac := (v.extractLsb' 0 23).toNat
  if exp = 255 then mkDbl v.msb 0x7FF (if frac = 0 then 0 else nanFrac 52 free)
  else exactDbl v.msb (if exp = 0 then frac else 2 ^ 23 + frac) ((max exp 1 : Nat) - 150)

/-- The binary32 magnitude (bits 30-0) at or below a finite double's, and whether it is equal: units of the
last place are `2^q`, `q >= -149`, and magnitudes count up through denormals, normals and infinity. -/
def singleBelow (x : QWord) : Nat × Bool :=
  let m := dblMant x
  let e := dblScale x
  if m = 0 then (0, true)
  else
    let q : Int := max (e + Nat.log2 m - 23) (-149)
    if 104 < q then (0x7F7FFFFF, false)
    else
      let t : Nat := if q ≤ e then m * 2 ^ (e - q).toNat else m / 2 ^ (q - e).toNat
      ((q + 149).toNat * 2 ^ 23 + t, if q ≤ e then true else decide (m % 2 ^ (q - e).toNat = 0))

/-- The binary32 encoding of a sign and a magnitude. -/
def mkSingle (sign : Bool) (mag : Nat) : Long := BitVec.ofBool sign ++ BitVec.ofNat 31 mag

/-- A double rounded to single precision and kept in the double layout: exact when it can be, else one of the
two singles that bracket it, whichever the free value picks (rule R326, D52). -/
def roundSingle (x : QWord) (free : QWord) : QWord :=
  if isNaN x then mkDbl (dblSign x) 0x7FF (nanFrac 52 free)
  else if isInf x then x
  else
    let (mag, exact) := singleBelow x
    dblOfSingle (mkSingle (dblSign x) (if exact then mag else if free.getLsbD 0 then mag + 1 else mag)) free

/-- The rounding of a double to single precision draws a free value. -/
def roundsFreely (x : QWord) : Bool := isNaN x || (!isInf x && !(singleBelow x).2)

/-- A double written as binary32: exact when it can be; a NaN with a free fraction; else a bracketing single,
or for an underflowing value a zero, whichever the free value picks (rule R327, D52). -/
def singleOfDbl (x : QWord) (free : QWord) : Long :=
  if isNaN x then mkSingle (dblSign x) (0x7F800000 + nanFrac 23 free)
  else if isInf x then mkSingle (dblSign x) 0x7F800000
  else
    let (mag, exact) := singleBelow x
    if exact then mkSingle (dblSign x) mag
    else if mag < 2 ^ 23 ∧ free.getLsbD 1 then mkSingle (dblSign x) 0
    else mkSingle (dblSign x) (if free.getLsbD 0 then mag + 1 else mag)

/-- A finite double truncated toward zero (rule R329). -/
def truncDbl (x : QWord) : Int :=
  let t : Nat := if 0 ≤ dblScale x then dblMant x * 2 ^ (dblScale x).toNat else dblMant x / 2 ^ (-dblScale x).toNat
  if dblSign x then -(t : Int) else t

/-- A finite double is an integer. -/
def isIntegral (x : QWord) : Bool :=
  if 0 ≤ dblScale x then true else decide (dblMant x % 2 ^ (-dblScale x).toNat = 0)

/-- The value is finite. -/
def isFinite (x : QWord) : Bool := dblExp x != 0x7FF

/-- In the signed range of `n` bytes. -/
def fitsSigned (sz : Size) (t : Int) : Bool :=
  decide (-(2 ^ (8 * sz.bytes - 1) : Int) ≤ t) && decide (t < (2 ^ (8 * sz.bytes - 1) : Int))

/-- In the unsigned range of `n` bytes. -/
def fitsUnsigned (sz : Size) (t : Int) : Bool := decide (0 ≤ t) && decide (t < (2 ^ (8 * sz.bytes) : Int))

/-- FMOVE to an integer: the integer when the value is one in the signed range (rule R327). -/
def intOfDbl (sz : Size) (x : QWord) : Option Int :=
  if isFinite x && isIntegral x && fitsSigned sz (truncDbl x) then some (truncDbl x) else none

/-- FMOVERZ (rule R329). -/
def signedTrunc (sz : Size) (x : QWord) : Option Int :=
  if isFinite x && fitsSigned sz (truncDbl x) then some (truncDbl x) else none

/-- FMOVEURZ (rule R330). -/
def unsignedTrunc (sz : Size) (x : QWord) : Option Int :=
  if isFinite x && fitsUnsigned sz (truncDbl x) then some (truncDbl x) else none

/-- The operand of FMOVE `<ea>`,FPn as a double, the free value for a NaN's fraction (rule R325). -/
def dblOfOperand (fmt : FpFmt) (v free : QWord) : QWord :=
  match fmt with
  | .b => dblOfInt (v.extractLsb' 0 8).toInt
  | .w => dblOfInt (v.extractLsb' 0 16).toInt
  | .l => dblOfInt (v.extractLsb' 0 32).toInt
  | .s => dblOfSingle (v.extractLsb' 0 32) free
  | .d => v

/-- The operand is a single NaN, whose fraction is drawn. -/
def operandFree (fmt : FpFmt) (v : QWord) : Bool :=
  fmt == .s && (v.extractLsb' 23 8 == (0xFF : BitVec 8)) && v.extractLsb' 0 23 != 0

end Sys2Proof.Machine
end

