-- ==== Sys2Proof/Machine/Float.lean ====
section
/-!
DEFINITION. The floating-point instructions (44_float.md rules R323 to R333).
-/

namespace Sys2Proof.Machine

/-- Every floating-point instruction is refused while PCR `dfp` is 1 (rules R193, R333). -/
def fpuOn (s : State) (r : Res State) : Res State := if s.pcr.dfp then .refused .fpuDisabled else r

/-- FDBcc.L Dn,label (rules R323, R324). -/
def execFdbccL (pred : BitVec 6) (dn : Reg3) (disp : Word) (s : State) : Res State :=
  fpuOn s <|
    match s.fpcc.cond pred with
    | none => .refused .fpPredicate
    | some true => .next (s.advance 6)
    | some false => .next (countDown (s.pc + 4) dn disp s)

/-- The double an FMOVE operand becomes, with the rounding-precision step (rules R325, R326). -/
def fmoveValue (fmt : FpFmt) (rp : RoundPrec) (v free : QWord) : QWord :=
  match rp with
  | .single => roundSingle (dblOfOperand fmt v free) free
  | .default => dblOfOperand fmt v free
  | .double => dblOfOperand fmt v free

/-- The conversion draws a free value: a single NaN, or an inexact or NaN rounding (rules R325, R326). -/
def fmoveDraws (fmt : FpFmt) (rp : RoundPrec) (v free : QWord) : Bool :=
  match rp with
  | .single => operandFree fmt v || roundsFreely (dblOfOperand fmt v free)
  | .default => operandFree fmt v
  | .double => operandFree fmt v

/-- The state after the conversion's draw, if it takes one. -/
def State.drawnIf (s : State) (p : Bool) : State := if p then s.drawn else s

/-- FMOVE to a floating-point register, given the operand read in state `t` (rules R321, R325, R326). -/
def loadFp (fmt : FpFmt) (rp : RoundPrec) (k : Reg5) (v : QWord) (t : State) : State :=
  let x := fmoveValue fmt rp v t.free
  ((t.drawnIf (fmoveDraws fmt rp v t.free)).setFp k x).setFpcc (fpccOf x)

/-- FMOVE.fmt `<ea>`,FPn (rules R325, R326, R328). -/
def fmoveIn (p : Prefix) (fmt : FpFmt) (rp : RoundPrec) (ea : Ea) (fp : Reg3) (s : State) : Res State :=
  let l := locate fmt.size (s.pc + BitVec.ofNat 32 (p.bytes + 4)) p.aa ea s
  fpuOn s <| finish (p.bytes + 4 + eaBytes fmt.size ea) <|
    andThen (readLoc fmt.size l) fun v => .next (loadFp fmt rp (banked p.bb fp) v l.st)

/-- FMOVE.fmt `<ea>`,FPn (rules R325, R326). -/
def execFmoveEaFp (fmt : FpFmt) (rp : RoundPrec) (ea : Ea) (fp : Reg3) (s : State) : Res State :=
  fmoveIn .none fmt rp ea fp s

/-- An integer result, or a free value where there is none (rules R327, R329, R330). -/
def intOr (t : Option Int) (free : QWord) : QWord :=
  match t with
  | some i => BitVec.ofInt 64 i
  | none => free

/-- The value FMOVE FPn,`<ea>` writes (rule R327). -/
def storedValue (fmt : FpFmt) (x free : QWord) : QWord :=
  match fmt with
  | .b => intOr (intOfDbl .b x) free
  | .w => intOr (intOfDbl .w x) free
  | .l => intOr (intOfDbl .l x) free
  | .s => zext (singleOfDbl x free)
  | .d => x

/-- The conversion draws a free value (rule R327). -/
def storeDraws (fmt : FpFmt) (x : QWord) : Bool :=
  match fmt with
  | .b => (intOfDbl .b x).isNone
  | .w => (intOfDbl .w x).isNone
  | .l => (intOfDbl .l x).isNone
  | .s => roundsFreely x
  | .d => false

/-- FMOVE, FMOVERZ and FMOVEURZ FPn,`<ea>`: the value written, then the condition bits of the register
(rules R327 to R330). -/
def fmoveOut (value : QWord → QWord → QWord) (draws : QWord → Bool) (p : Prefix) (fmt : FpFmt) (fp : Reg3)
    (ea : Ea) (s : State) : Res State :=
  let x := s.fp (banked p.aa fp)
  let l := locate fmt.size (s.pc + BitVec.ofNat 32 (p.bytes + 4)) p.bb ea s
  fpuOn s <| finish (p.bytes + 4 + eaBytes fmt.size ea) <|
    andThen (writeLoc fmt.size ⟨l.loc, l.st.drawnIf (draws x)⟩ (value x l.st.free)) fun t =>
      .next (t.setFpcc (fpccOf x))

/-- FMOVE.fmt FPn,`<ea>` (rule R327). -/
def fmoveStore (p : Prefix) (fmt : FpFmt) (fp : Reg3) (ea : Ea) (s : State) : Res State :=
  fmoveOut (storedValue fmt) (storeDraws fmt) p fmt fp ea s

/-- FMOVE.fmt FPn,`<ea>` (rule R327). -/
def execFmoveFpEa (fmt : FpFmt) (fp : Reg3) (ea : Ea) (s : State) : Res State := fmoveStore .none fmt fp ea s

/-- FMOVERZ.fmt FPn,`<ea>` (rule R329). -/
def fmoveTrunc (p : Prefix) (fmt : FpFmt) (fp : Reg3) (ea : Ea) (s : State) : Res State :=
  fmoveOut (fun x free => intOr (signedTrunc fmt.size x) free) (fun x => (signedTrunc fmt.size x).isNone) p fmt fp ea s

/-- FMOVERZ.fmt FPn,`<ea>` (rule R329). -/
def execFmoverz (fmt : FpFmt) (fp : Reg3) (ea : Ea) (s : State) : Res State := fmoveTrunc .none fmt fp ea s

/-- FMOVEURZ.fmt FPn,`<ea>` (rule R330). -/
def fmoveTruncU (p : Prefix) (fmt : FpFmt) (fp : Reg3) (ea : Ea) (s : State) : Res State :=
  fmoveOut (fun x free => intOr (unsignedTrunc fmt.size x) free) (fun x => (unsignedTrunc fmt.size x).isNone) p fmt
    fp ea s

/-- FMOVEURZ.fmt FPn,`<ea>` (rule R330). -/
def execFmoveurz (fmt : FpFmt) (fp : Reg3) (ea : Ea) (s : State) : Res State := fmoveTruncU .none fmt fp ea s

/-- FLOADI: the bundle around FMOVE Dn,FPn: source `R5[AA:reg]`, destination `BB:fff` (rule R328). -/
def execFloadi (p : BankPrefix) (fmt : FpFmt) (rp : RoundPrec) (dn fp : Reg3) (s : State) : Res State :=
  fmoveIn (.ofBank p) fmt rp (.dn dn) fp s

/-- FSTOREI: the bundle around FMOVE FPn,Dn: source `AA:fff`, destination `R5[BB:reg]` (rule R328). -/
def execFstorei (p : BankPrefix) (fmt : FpFmt) (fp dn : Reg3) (s : State) : Res State :=
  fmoveStore (.ofBank p) fmt fp (.dn dn) s

end Sys2Proof.Machine
end

