-- ==== Sys2Proof/Machine/Moves.lean ====
section
/-!
DEFINITION. The moves: LEA with a B register (rules R155, R156), MOV3Q to MOVZ2 (41_integer_2.md sections 1,
2, 5 and 7 to 11).
-/

namespace Sys2Proof.Machine

/-- LEA `<ea>`,Bn (rule R155). -/
def execLeaEaBn (ea : Ea) (bn : Reg3) (s : State) : Res State :=
  finish (2 + eaBytes .l ea) <|
    andThen (memAddr (locate .l (s.pc + 2) 0 ea s)) fun a => .next (s.setLong (.b bn) a)

/-- LEA (Bn),An (rule R156). -/
def execLeaBnAn (bn an : Reg3) (s : State) : Res State :=
  finish 2 (.next (s.setLong (.a an) (s.long (.b bn))))

/-- A long moved to an `<ea>`, flags `- * * 0 0` (rules R170, R172, R201): `own` bytes precede the extension
words. -/
def moveLong (own : Nat) (p : Prefix) (v : Long) (ea : Ea) (s : State) : Res State :=
  finish (p.bytes + own + eaBytes .l ea) <|
    andThen (writeLoc .l (locate .l (s.pc + BitVec.ofNat 32 (p.bytes + own)) p.bb ea s) (zext v)) fun t =>
      .next (t.setSr (s.sr.movedLong v))

/-- The 3-bit data of MOV3Q: 000 is -1 (rule R170). -/
def mov3qData (d : BitVec 3) : Long := if d = 0 then 0xFFFFFFFF else d.setWidth 32

/-- MOV3Q #data,`<ea>` (rule R170). -/
def execMov3q (data : BitVec 3) (ea : Ea) (s : State) : Res State :=
  lineA s (moveLong 2 .none (mov3qData data) ea s)

/-- MOVE.L Bn,`<ea>` (rule R172). -/
def moveFromB (p : Prefix) (bn : Reg3) (ea : Ea) (s : State) : Res State := moveLong 2 p (s.long (.b bn)) ea s

/-- MOVE.L Bn,`<ea>` (rule R172). -/
def execMoveBnEa (bn : Reg3) (ea : Ea) (s : State) : Res State := moveFromB .none bn ea s

/-- MOVEA.L `<ea>`,Bn (rule R173). -/
def moveToB (p : Prefix) (ea : Ea) (bn : Reg3) (s : State) : Res State :=
  let l := locate .l (s.pc + BitVec.ofNat 32 (p.bytes + 2)) p.aa ea s
  finish (p.bytes + 2 + eaBytes .l ea) <|
    andThen (readLoc .l l) fun v => .next (l.st.setLong (.b bn) (low32 v))

/-- MOVEA.L `<ea>`,Bn (rule R173). -/
def execMoveaEaBn (ea : Ea) (bn : Reg3) (s : State) : Res State := moveToB .none ea bn s

/-- MOVIW.L #imm,`<ea>` (rule R201). -/
def moveImmWord (p : Prefix) (imm : Word) (ea : Ea) (s : State) : Res State :=
  lineA s (moveLong 4 p (imm.signExtend 32) ea s)

/-- MOVIW.L #imm,`<ea>` (rule R201). -/
def execMoviw (imm : Word) (ea : Ea) (s : State) : Res State := moveImmWord .none imm ea s

/-- A byte or word, zero-extended or sign-extended to a long. -/
def signLong (sz : Size) (v : QWord) : Long :=
  match sz with
  | .b => (v.extractLsb' 0 8).signExtend 32
  | .w => (v.extractLsb' 0 16).signExtend 32
  | .l => low32 v
  | .q => low32 v

/-- MOVS and MOVZ: a byte or word operand extended to a long in Dn, flags `- * * 0 0` (rules R202, R203). -/
def moveExtended (ext : Size → QWord → Long) (sz : Size) (ea : Ea) (dn : Reg3) (s : State) : Res State :=
  let l := locate sz (s.pc + 2) 0 ea s
  finish (2 + eaBytes sz ea) <|
    andThen (readLoc sz l) fun v =>
      .next ((l.st.setLong (.d (banked 0 dn)) (ext sz v)).setSr (s.sr.movedLong (ext sz v)))

/-- MOVS `<ea>`,Dn (rule R202). -/
def execMovs (sz : Size) (ea : Ea) (dn : Reg3) (s : State) : Res State := lineA s (moveExtended signLong sz ea dn s)

/-- MOVZ `<ea>`,Dn (rule R203). -/
def execMovz (sz : Size) (ea : Ea) (dn : Reg3) (s : State) : Res State :=
  lineA s (moveExtended (fun _ v => low32 v) sz ea dn s)

/-- The two data of a pair load: at `p` and at `p + n` (rules R195, R205). -/
def readPair (sz : Size) (p : Addr) (s : State) : Res (QWord × QWord) :=
  andThen (readMem sz p s) fun v1 =>
    andThen (readMem sz (p + BitVec.ofNat 32 sz.bytes) s) fun v2 => .next (v1, v2)

/-- MOVE2 and the old MOVE2 over two register names: `put` writes a loaded datum (rules R195, R196). -/
def movePair (put : State → RegName → QWord → State) (sz : Size) (toMem : Bool) (r1 r2 : RegName) (ea : Ea)
    (s : State) : Res State :=
  finish (4 + eaBytes sz ea) <|
    andThen (memAddr (locate sz (s.pc + 4) 0 ea s)) fun p =>
      if toMem then
        andThen (writeMem sz p (s.quad r1) s) fun t =>
          andThen (writeMem sz (p + BitVec.ofNat 32 sz.bytes) (s.quad r2) t) fun u =>
            .next (u.setSr (s.sr.movedSized sz (lowBytes sz (s.quad r1))))
      else
        andThen (readPair sz p s) fun v =>
          .next ((put (put s r1 v.1) r2 v.2).setSr (s.sr.movedSized sz v.1))

/-- MOVE2 (rule R195): no extension. -/
def execMove2 (sz : Size) (toMem : Bool) (b c : Reg4) (ea : Ea) (s : State) : Res State :=
  movePair (fun s r v => s.setPart sz r v) sz toMem (rn4 b) (rn4 c) ea s

/-- The old MOVE2 (rule R196): registers `b` and `b + 1`, a loaded datum zero-extended to a long. -/
def execMove2Old (sz : Size) (toMem : Bool) (b : Reg4) (ea : Ea) (s : State) : Res State :=
  movePair (fun s r v => s.setLong r (low32 v)) sz toMem (rn4 b) (rn4 (b + 1)) ea s

/-- MOVEH (rule R198). -/
def execMoveh (toMem : Bool) (b : Reg4) (ea : Ea) (s : State) : Res State :=
  finish (4 + eaBytes .w ea) <|
    andThen (memAddr (locate .w (s.pc + 4) 0 ea s)) fun p =>
      if toMem then
        let v : QWord := ((s.long (rn4 b)).extractLsb' 16 16).setWidth 64
        andThen (writeMem .w p v s) fun t => .next (t.setSr (s.sr.movedSized .w v))
      else
        andThen (readMem .w p s) fun v =>
          .next ((s.setHigh (rn4 b) (v.extractLsb' 0 16)).setSr (s.sr.movedSized .w v))

/-- MOVEX (rule R199): the address is formed first. -/
def execMovex (sz : Size) (toEa : Bool) (b : Reg4) (ea : Ea) (s : State) : Res State :=
  let l := locate sz (s.pc + 4) 0 ea s
  finish (4 + eaBytes sz ea) <|
    if toEa then
      let r := revBytes sz (l.st.quad (rn4 b))
      andThen (writeLoc sz l r) fun t => .next (t.setSr (s.sr.movedSized sz r))
    else
      andThen (readLoc sz l) fun v =>
        .next ((l.st.setPart sz (rn4 b) (revBytes sz v)).setSr (s.sr.movedSized sz (revBytes sz v)))

/-- MOVZ2 (rule R205): N is free when the first datum's top bit is set (D50). -/
def execMovz2 (sz : Size) (b c : Reg4) (ea : Ea) (s : State) : Res State :=
  finish (4 + eaBytes sz ea) <|
    andThen (memAddr (locate sz (s.pc + 4) 0 ea s)) fun p =>
      andThen (readPair sz p s) fun v =>
        let t := (s.setLong (rn4 b) (low32 v.1)).setLong (rn4 c) (low32 v.2)
        if v.1.getLsbD (8 * sz.bytes - 1) then
          .next (t.drawn.setSr (s.sr.moved (t.free.getLsbD 0) (v.1 == 0)))
        else .next (t.setSr (s.sr.moved false (v.1 == 0)))

end Sys2Proof.Machine
end

