-- ==== Sys2Proof/Machine/Bank.lean ====
section
/-!
DEFINITION. The BANK bundle: the prefix and the instruction after it in one step (rules R136 to R140).
-/

namespace Sys2Proof.Machine

/-- The inner instruction with the prefix (rules R139, R140); one no bundle admits is refused. -/
def execInner (p : Prefix) (inner : Instr) (s : State) : Res State :=
  match inner with
  | .moviw imm ea => moveImmWord p imm ea s
  | .clrB ea => clear .b p ea s
  | .clrW ea => clear .w p ea s
  | .clrL ea => clear .l p ea s
  | .extub dn => extendUnsigned .b p dn s
  | .extuw dn => extendUnsigned .w p dn s
  | .perm a b p0 p1 p2 p3 => permute p a b p0 p1 p2 p3 s
  | .moveBnEa bn ea => moveFromB p bn ea s
  | .moveaEaBn ea bn => moveToB p ea bn s
  | .fmoveEaFp fmt rp ea fp => fmoveIn p fmt rp ea fp s
  | .fmoveFpEa fmt fp ea => fmoveStore p fmt fp ea s
  | .fmoverz fmt fp ea => fmoveTrunc p fmt fp ea s
  | .fmoveurz fmt fp ea => fmoveTruncU p fmt fp ea s
  | _ => .refused (.form .bundle)

/-- A bundle that is not admitted is refused (rule R140). -/
def execBank (p : BankPrefix) (inner : Instr) (s : State) : Res State :=
  match formRefusal s.cfg (.bank p inner) with
  | some r => .refused (.form r)
  | none => execInner (.ofBank p) inner s

end Sys2Proof.Machine
end

