-- ==== Sys2Proof/Machine/System.lean ====
section
/-!
DEFINITION. MOVE SR, the apollo-bit writes and MOVEC (41_integer_2.md sections 3 and 6), with the control
registers they reach (rules R36 to R38, R193).
-/

namespace Sys2Proof.Machine

/-- MOVE SR,`<ea>` (rule R182), in any mode. -/
def execMoveSrEa (ea : Ea) (s : State) : Res State :=
  finish (2 + eaBytes .w ea) (writeLoc .w (locate .w (s.pc + 2) 0 ea s) (s.sr.word.setWidth 64))

/-- ORI #imm,SR (rule R183): only the apollo-bit's immediate has an effect here; any other is privileged. -/
def execOriSr (imm : Word) (s : State) : Res State :=
  if imm = 0x0800 then finish 4 (.next (s.setSr s.sr.setApollo))
  else if s.sr.supervisor then .refused .legacySrImmediate
  else raise .privilegeViolation s.pc s

/-- ANDI #imm,SR (rule R184). -/
def execAndiSr (imm : Word) (s : State) : Res State :=
  if imm = 0xF7FF then finish 4 (.next (s.setSr s.sr.clearApollo))
  else if s.sr.supervisor then .refused .legacySrImmediate
  else raise .privilegeViolation s.pc s

/-- PCR as MOVEC reads it: id `$0440`, the revision, and the four writable bits (rules R37, R193). -/
def pcrWord (cfg : Config) (p : Pcr) : Long :=
  0x0440#16 ++ cfg.pcrRevision ++ BitVec.ofBool p.edebug ++ BitVec.ofBool p.amiga ++ 0#4 ++
    BitVec.ofBool p.dfp ++ BitVec.ofBool p.ess

/-- The writable bits of a long written to PCR (rules R37, R193). -/
def pcrOf (v : Long) : Pcr := ⟨v.getLsbD 7, v.getLsbD 6, v.getLsbD 1, v.getLsbD 0⟩

/-- The event counters by name (rule R36). -/
inductive Counter where
  | ccc | iep1 | iep2 | bpc | bpw | dch | dcm | str | stc | sth | stb | mwr
deriving DecidableEq, Repr

/-- A counter's field takes the value a read gave (rule R38; log entry 9). -/
def Counters.put (c : Counters) (k : Counter) (v : Long) : Counters :=
  match k with
  | .ccc => { c with ccc := v }
  | .iep1 => { c with iep1 := v }
  | .iep2 => { c with iep2 := v }
  | .bpc => { c with bpc := v }
  | .bpw => { c with bpw := v }
  | .dch => { c with dch := v }
  | .dcm => { c with dcm := v }
  | .str => { c with str := v }
  | .stc => { c with stc := v }
  | .sth => { c with sth := v }
  | .stb => { c with stb := v }
  | .mwr => { c with mwr := v }

/-- A control register. -/
inductive ControlReg where
  | pcr
  | counter (k : Counter)
deriving DecidableEq, Repr

/-- The control registers by number; no other is listed (rule R36). -/
def controlReg (creg : BitVec 12) : Option ControlReg :=
  match creg with
  | 0x808#12 => some .pcr
  | 0x809#12 => some (.counter .ccc)
  | 0x80A#12 => some (.counter .iep1)
  | 0x80B#12 => some (.counter .iep2)
  | 0x80C#12 => some (.counter .bpc)
  | 0x80D#12 => some (.counter .bpw)
  | 0x80E#12 => some (.counter .dch)
  | 0x80F#12 => some (.counter .dcm)
  | 0x00A#12 => some (.counter .str)
  | 0x00B#12 => some (.counter .stc)
  | 0x00C#12 => some (.counter .sth)
  | 0x00D#12 => some (.counter .stb)
  | 0x00E#12 => some (.counter .mwr)
  | _ => none

/-- A counter read: a free value, which the counter's field then holds (rule R38). -/
def readCounter (k : Counter) (s : State) : Long × State :=
  let v : Long := s.free.extractLsb' 0 32
  (v, s.drawn.setCounters (s.counters.put k v))

/-- MOVEC Rc,Rn (rules R192, R193), in any mode. -/
def execMovecRcRn (rn : Reg4) (creg : BitVec 12) (s : State) : Res State :=
  finish 4 <|
    match controlReg creg with
    | none => .refused .controlRegister
    | some .pcr => .next (s.setLong (rn4 rn) (pcrWord s.cfg s.pcr))
    | some (.counter k) => .next ((readCounter k s).2.setLong (rn4 rn) (readCounter k s).1)

/-- MOVEC Rn,Rc (rules R192, R193): the mode is tested first (rule R364). -/
def execMovecRnRc (rn : Reg4) (creg : BitVec 12) (s : State) : Res State :=
  if s.sr.supervisor then
    finish 4 <|
      match controlReg creg with
      | none => .refused .controlRegister
      | some .pcr =>
        if (s.long (rn4 rn)).extractLsb' 2 4 = 0#4 then .next (s.setPcr (pcrOf (s.long (rn4 rn))))
        else .refused .pcrReserved
      | some (.counter _) => .refused .counterWrite
  else raise .privilegeViolation s.pc s

end Sys2Proof.Machine
end

