-- ==== Sys2Proof/Machine/Transfer.lean ====
section
/-!
DEFINITION. MOVE16 (rules R186 to R188) and TOUCH (rules R82, R212).
-/

namespace Sys2Proof.Machine

/-- Two 16-byte ranges overlap without being equal, addresses modulo `2^32` (rule R186, D33). -/
def overlaps16 (src dst : Addr) : Bool :=
  src != dst && (decide ((dst - src).toNat < 16) || decide ((src - dst).toNat < 16))

/-- 16 bytes from one address to another: all read before any is written (rules R66, R188). -/
def copy16 (src dst : Addr) (s : State) : Res State :=
  if overlaps16 src dst then .refused .move16Overlap
  else andThen (readBytes 16 src s) fun bs => storeBytes dst (bs.map some) s

/-- `A[n].l <- A[n].l + 16` after the transfer, from the address used (rules R186, R187). -/
def bump16 (n : Reg3) (p : Addr) (s : State) : State := s.setLong (.a n) (p + 16)

/-- MOVE16 (Ax)+,(Ay)+ (rule R186). -/
def execMove16PiPi (ax ay : Reg3) (s : State) : Res State :=
  if ax = ay then .refused .move16Overlap
  else
    let src := s.long (.a ax)
    let dst := s.long (.a ay)
    finish 4 (andThen (copy16 src dst s) fun t => .next (bump16 ay dst (bump16 ax src t)))

/-- MOVE16 (An)+,abs.l (rule R187). -/
def execMove16PiAbs (an : Reg3) (l : Long) (s : State) : Res State :=
  let p := s.long (.a an)
  finish 6 (andThen (copy16 p l s) fun t => .next (bump16 an p t))

/-- MOVE16 abs.l,(An)+ (rule R187). -/
def execMove16AbsPi (l : Long) (an : Reg3) (s : State) : Res State :=
  let p := s.long (.a an)
  finish 6 (andThen (copy16 l p s) fun t => .next (bump16 an p t))

/-- MOVE16 (An),abs.l (rule R187), under `F610_IS = move16`. -/
def execMove16AnAbs (an : Reg3) (l : Long) (s : State) : Res State := finish 6 (copy16 (s.long (.a an)) l s)

/-- MOVE16 abs.l,(An) (rule R187). -/
def execMove16AbsAn (l : Long) (an : Reg3) (s : State) : Res State := finish 6 (copy16 l (s.long (.a an)) s)

/-- Bytes of TOUCH's index extension (rules R94, R95). -/
def touchBytes (ext : IndexExt) : Nat := 2 + 2 * ext.words

/-- TOUCH with index: only the length matters (rules R82, R212). -/
def execTouchIndex (_an : Reg3) (ext : IndexExt) (s : State) : Res State := finish (touchBytes ext) (.next s)

/-- TOUCH (An) (rule R212), under `F610_IS = touch`. -/
def execTouchAn (_an : Reg3) (s : State) : Res State := finish 2 (.next s)

end Sys2Proof.Machine
end

