-- ==== Sys2Proof/Machine/Dispatch.lean ====
section
/-!
DEFINITION. The dispatch: one arm for each row of spec/opcode_table.json, one direct call of its meaning.
-/

namespace Sys2Proof.Machine

def exec (i : Instr) (s : State) : Host.Outcome State Fault Refusal :=
  match i with
  | .addiw imm ea => Sys2Proof.Machine.execAddiw imm ea s
  | .addqBn data bn => Sys2Proof.Machine.execAddqBn data bn s
  | .bank p inner => Sys2Proof.Machine.execBank p inner s
  | .bhi d8 => Sys2Proof.Machine.execBhi d8 s
  | .bls d8 => Sys2Proof.Machine.execBls d8 s
  | .bcc d8 => Sys2Proof.Machine.execBcc d8 s
  | .bcs d8 => Sys2Proof.Machine.execBcs d8 s
  | .bne d8 => Sys2Proof.Machine.execBne d8 s
  | .beq d8 => Sys2Proof.Machine.execBeq d8 s
  | .bvc d8 => Sys2Proof.Machine.execBvc d8 s
  | .bvs d8 => Sys2Proof.Machine.execBvs d8 s
  | .bpl d8 => Sys2Proof.Machine.execBpl d8 s
  | .bmi d8 => Sys2Proof.Machine.execBmi d8 s
  | .bge d8 => Sys2Proof.Machine.execBge d8 s
  | .blt d8 => Sys2Proof.Machine.execBlt d8 s
  | .bgt d8 => Sys2Proof.Machine.execBgt d8 s
  | .ble d8 => Sys2Proof.Machine.execBle d8 s
  | .bra d8 => Sys2Proof.Machine.execBra d8 s
  | .bsr d8 => Sys2Proof.Machine.execBsr d8 s
  | .clrQ ea => Sys2Proof.Machine.execClrQ ea s
  | .clrB ea => Sys2Proof.Machine.execClrB ea s
  | .clrW ea => Sys2Proof.Machine.execClrW ea s
  | .clrL ea => Sys2Proof.Machine.execClrL ea s
  | .cmpBnDn bn dn => Sys2Proof.Machine.execCmpBnDn bn dn s
  | .cmpiw imm ea => Sys2Proof.Machine.execCmpiw imm ea s
  | .dbccL cond dn disp => Sys2Proof.Machine.execDbccL cond dn disp s
  | .extub dn => Sys2Proof.Machine.execExtub dn s
  | .extuw dn => Sys2Proof.Machine.execExtuw dn s
  | .leaEaBn ea bn => Sys2Proof.Machine.execLeaEaBn ea bn s
  | .leaBnAn bn an => Sys2Proof.Machine.execLeaBnAn bn an s
  | .mov3q data ea => Sys2Proof.Machine.execMov3q data ea s
  | .moveBnEa bn ea => Sys2Proof.Machine.execMoveBnEa bn ea s
  | .moveaEaBn ea bn => Sys2Proof.Machine.execMoveaEaBn ea bn s
  | .moveSrEa ea => Sys2Proof.Machine.execMoveSrEa ea s
  | .oriSr imm => Sys2Proof.Machine.execOriSr imm s
  | .andiSr imm => Sys2Proof.Machine.execAndiSr imm s
  | .move16PiPi ax ay => Sys2Proof.Machine.execMove16PiPi ax ay s
  | .move16PiAbs an l => Sys2Proof.Machine.execMove16PiAbs an l s
  | .move16AbsPi l an => Sys2Proof.Machine.execMove16AbsPi l an s
  | .move16AnAbs an l => Sys2Proof.Machine.execMove16AnAbs an l s
  | .move16AbsAn l an => Sys2Proof.Machine.execMove16AbsAn l an s
  | .movecRcRn rn creg => Sys2Proof.Machine.execMovecRcRn rn creg s
  | .movecRnRc rn creg => Sys2Proof.Machine.execMovecRnRc rn creg s
  | .move2 sz toMem b c ea => Sys2Proof.Machine.execMove2 sz toMem b c ea s
  | .move2Old sz toMem b ea => Sys2Proof.Machine.execMove2Old sz toMem b ea s
  | .moveh toMem b ea => Sys2Proof.Machine.execMoveh toMem b ea s
  | .movex sz toEa b ea => Sys2Proof.Machine.execMovex sz toEa b ea s
  | .moviw imm ea => Sys2Proof.Machine.execMoviw imm ea s
  | .movs sz ea dn => Sys2Proof.Machine.execMovs sz ea dn s
  | .movz sz ea dn => Sys2Proof.Machine.execMovz sz ea dn s
  | .movz2 sz b c ea => Sys2Proof.Machine.execMovz2 sz b c ea s
  | .perm a b pos0 pos1 pos2 pos3 => Sys2Proof.Machine.execPerm a b pos0 pos1 pos2 pos3 s
  | .subqBn data bn => Sys2Proof.Machine.execSubqBn data bn s
  | .touchIndex an ext => Sys2Proof.Machine.execTouchIndex an ext s
  | .touchAn an => Sys2Proof.Machine.execTouchAn an s
  | .bflyb vea b d => Sys2Proof.Machine.execBflyb vea b d s
  | .bflyw vea b d => Sys2Proof.Machine.execBflyw vea b d s
  | .bsel vea b d => Sys2Proof.Machine.execBsel vea b d s
  | .c2p vea d => Sys2Proof.Machine.execC2p vea d s
  | .load vea d => Sys2Proof.Machine.execLoad vea d s
  | .loadi vea d => Sys2Proof.Machine.execLoadi vea d s
  | .lslq vea b d => Sys2Proof.Machine.execLslq vea b d s
  | .lsrq vea b d => Sys2Proof.Machine.execLsrq vea b d s
  | .minterm grp d => Sys2Proof.Machine.execMinterm grp d s
  | .pack3216 b d vea => Sys2Proof.Machine.execPack3216 b d vea s
  | .packuswb b d vea => Sys2Proof.Machine.execPackuswb b d vea s
  | .paddb vea b d => Sys2Proof.Machine.execPaddb vea b d s
  | .paddw vea b d => Sys2Proof.Machine.execPaddw vea b d s
  | .paddusb vea b d => Sys2Proof.Machine.execPaddusb vea b d s
  | .paddusw vea b d => Sys2Proof.Machine.execPaddusw vea b d s
  | .pand vea b d => Sys2Proof.Machine.execPand vea b d s
  | .pandn vea b d => Sys2Proof.Machine.execPandn vea b d s
  | .pavgb vea b d => Sys2Proof.Machine.execPavgb vea b d s
  | .pcmpeqb vea b d => Sys2Proof.Machine.execPcmpeqb vea b d s
  | .pcmphib vea b d => Sys2Proof.Machine.execPcmphib vea b d s
  | .pcmpgeb vea b d => Sys2Proof.Machine.execPcmpgeb vea b d s
  | .pcmpgtb vea b d => Sys2Proof.Machine.execPcmpgtb vea b d s
  | .pcmpeqw vea b d => Sys2Proof.Machine.execPcmpeqw vea b d s
  | .pcmphiw vea b d => Sys2Proof.Machine.execPcmphiw vea b d s
  | .pcmpgew vea b d => Sys2Proof.Machine.execPcmpgew vea b d s
  | .pcmpgtw vea b d => Sys2Proof.Machine.execPcmpgtw vea b d s
  | .peor vea b d => Sys2Proof.Machine.execPeor vea b d s
  | .pmaxsb vea b d => Sys2Proof.Machine.execPmaxsb vea b d s
  | .pmaxub vea b d => Sys2Proof.Machine.execPmaxub vea b d s
  | .pmaxsw vea b d => Sys2Proof.Machine.execPmaxsw vea b d s
  | .pmaxuw vea b d => Sys2Proof.Machine.execPmaxuw vea b d s
  | .pminsb vea b d => Sys2Proof.Machine.execPminsb vea b d s
  | .pminub vea b d => Sys2Proof.Machine.execPminub vea b d s
  | .pminsw vea b d => Sys2Proof.Machine.execPminsw vea b d s
  | .pminuw vea b d => Sys2Proof.Machine.execPminuw vea b d s
  | .pmul88 vea b d => Sys2Proof.Machine.execPmul88 vea b d s
  | .pmulh vea b d => Sys2Proof.Machine.execPmulh vea b d s
  | .pmull vea b d => Sys2Proof.Machine.execPmull vea b d s
  | .pmula vea b d => Sys2Proof.Machine.execPmula vea b d s
  | .por vea b d => Sys2Proof.Machine.execPor vea b d s
  | .psubb vea b d => Sys2Proof.Machine.execPsubb vea b d s
  | .psubw vea b d => Sys2Proof.Machine.execPsubw vea b d s
  | .psubusb vea b d => Sys2Proof.Machine.execPsubusb vea b d s
  | .psubusw vea b d => Sys2Proof.Machine.execPsubusw vea b d s
  | .store b vea => Sys2Proof.Machine.execStore b vea s
  | .storec b d vea => Sys2Proof.Machine.execStorec b d vea s
  | .storei b vea => Sys2Proof.Machine.execStorei b vea s
  | .storeilm b d vea => Sys2Proof.Machine.execStoreilm b d vea s
  | .storem b d vea => Sys2Proof.Machine.execStorem b d vea s
  | .storem3 b mode xx vea => Sys2Proof.Machine.execStorem3 b mode xx vea s
  | .tex an au av d s1 s2 ttt s3 => Sys2Proof.Machine.execTex an au av d s1 s2 ttt s3 s
  | .texB an au av d dm => Sys2Proof.Machine.execTexB an au av d dm s
  | .transhi grp d => Sys2Proof.Machine.execTranshi grp d s
  | .translo grp d => Sys2Proof.Machine.execTranslo grp d s
  | .unpack1632 vea d => Sys2Proof.Machine.execUnpack1632 vea d s
  | .vperm a b d sel => Sys2Proof.Machine.execVperm a b d sel s
  | .fdbccL pred dn disp => Sys2Proof.Machine.execFdbccL pred dn disp s
  | .fmoveEaFp fmt rp ea fp => Sys2Proof.Machine.execFmoveEaFp fmt rp ea fp s
  | .fmoveFpEa fmt fp ea => Sys2Proof.Machine.execFmoveFpEa fmt fp ea s
  | .fmoverz fmt fp ea => Sys2Proof.Machine.execFmoverz fmt fp ea s
  | .fmoveurz fmt fp ea => Sys2Proof.Machine.execFmoveurz fmt fp ea s
  | .floadi p fmt rp dn fp => Sys2Proof.Machine.execFloadi p fmt rp dn fp s
  | .fstorei p fmt fp dn => Sys2Proof.Machine.execFstorei p fmt fp dn s

end Sys2Proof.Machine
end

