-- ==== Sys2Proof/Machine/Fetch.lean ====
section
/-!
DEFINITION. Fetching and selecting the instruction at `pc` (rules R61, R80, R90, R364, R381), and placing
words in the program text.
-/

namespace Sys2Proof.Machine

/-- Up to `n` words from an address, as long as both bytes of each are program text. -/
def fetchWords (s : State) (a : Addr) : Nat → List Word
  | 0 => []
  | n + 1 => if s.inText a && s.inText (a + 1) then s.wordAt a :: fetchWords s (a + 2) n else []

/-- The words at `pc`. -/
def State.fetch (s : State) : List Word := fetchWords s s.pc maxWords

/-- A memory with words stored from an address up, each most significant byte first (rule R61). -/
def storeWords (m : Memory) (a : Addr) : List Word → Memory
  | [] => m
  | w :: ws => storeWords ((m.set a.toNat (w.extractLsb' 8 8)).set (a + 1).toNat (w.extractLsb' 0 8)) (a + 2) ws

/-- A program loaded from outside the machine: words at an address, which become program text (rule R381). -/
def State.loadText (s : State) (a : Addr) (ws : List Word) : State :=
  { s with mem := storeWords s.mem a ws, text := ⟨a.toNat, 2 * ws.length⟩ :: s.text }

/-- A Line-A word (rule R108). -/
def isLineA (w : Word) : Bool := w.extractLsb' 12 4 == 0xA#4

/-- The instruction at `pc`, in the order of rule R364: an odd `pc` is an address error (rule R65); outside the
program text the run has ended (rule R384); a Line-A word with the apollo-bit clear, or an unassigned one, is a
Line-A exception (rule R353); words or operand forms without a meaning are refused. -/
def nextInstr (s : State) : Res Instr :=
  if s.pc.getLsbD 0 then raise .addressError s.pc s
  else
    match s.fetch with
    | [] => .fault (.endOfText s.pc)
    | w :: ws =>
      if isLineA w && !s.sr.apollo then raise .lineA s.pc s
      else
        match decode s.cfg (w :: ws) with
        | .reject .lineAUnassigned => raise .lineA s.pc s
        | .reject r => .refused (.form r)
        | .ok i _ =>
          match formRefusal s.cfg i with
          | some r => .refused (.form r)
          | none => .next i

end Sys2Proof.Machine
end

