-- ==== Sys2Proof/Machine/Trace.lean ====
section
/-!
DEFINITION. Which instructions trace (rules R360, R362).
-/

namespace Sys2Proof.Machine

/-- The condition of a Bcc; none for another instruction (rules R34, R142). -/
def bccCond : Instr → Option (BitVec 4)
  | .bhi _ => some 0x2
  | .bls _ => some 0x3
  | .bcc _ => some 0x4
  | .bcs _ => some 0x5
  | .bne _ => some 0x6
  | .beq _ => some 0x7
  | .bvc _ => some 0x8
  | .bvs _ => some 0x9
  | .bpl _ => some 0xA
  | .bmi _ => some 0xB
  | .bge _ => some 0xC
  | .blt _ => some 0xD
  | .bgt _ => some 0xE
  | .ble _ => some 0xF
  | _ => none

/-- An instruction that does not trace (rule R362): ORI #$0800,SR; a Bcc not taken; a DBcc.L that falls
through; FDBcc.L. -/
def untraced (i : Instr) (s : State) : Bool :=
  match i with
  | .oriSr _ => true
  | .dbccL cond dn _ => s.sr.cond cond || s.long (.d (banked 0 dn)) == 0
  | .fdbccL _ _ _ => true
  | i =>
    match bccCond i with
    | some cc => !s.sr.cond cc
    | none => false

/-- After an instruction completes: `Trace` when SR bit 15 was set before it and it is traceable
(rules R350, R360, D51). -/
def traceAfter (i : Instr) (s t : State) : Res State :=
  if s.sr.trace && !untraced i s then raise .trace t.pc t else .next t

end Sys2Proof.Machine
end

