-- ==== Sys2Proof/Machine/Step.lean ====
section
/-!
DEFINITION. One step: the instruction at `pc` is selected, runs, and may trace (rules R17, R360, R364); and the
placing of an instruction where the next step fetches it.
-/

namespace Sys2Proof.Machine

/-- One instruction or BANK bundle (rule R17). -/
def step (s : State) : Host.Outcome State Fault Refusal :=
  andThen (nextInstr s) fun i => andThen (exec i s) fun t => traceAfter i s t

/-- The state with an opcode-table word as the program text at `pc` (rule R381; log entry 7). -/
def State.withFetchWord (s : State) (nbits w : Nat) : State := s.loadText s.pc (tableWords nbits w)

end Sys2Proof.Machine
end

