-- ==== Sys2Proof/Safety.lean ====
section
/-!
DEFINITION. The terms claims are stated in: the invariant of the machine's states, what no step changes, what
an instruction leaves alone, where an operand lies and what it holds, and how a run ends.
-/

namespace Sys2Proof.Machine

/-- What every reachable state is: `pc` even (rule R65) and memory in its canonical form. -/
structure Inv (s : State) : Prop where
  pcEven : s.pc.getLsbD 0 = false
  memWf : s.mem.wf = true

/-- What the rules give no instruction to change: the user stack pointer (rule R39), the parameters (rule R9), the
program text and the data
addresses (rules R80, R381), and every SR bit of the system byte but the apollo-bit (rules R30, R355, R360). -/
structure Fixed (s t : State) : Prop where
  usp : t.usp = s.usp
  cfg : t.cfg = s.cfg
  text : t.text = s.text
  regions : t.regions = s.regions
  sys : t.sr.sys &&& 0xF7 = s.sr.sys &&& 0xF7

/-- A run that stops here has ended as rule R384 says: an exception, or `pc` outside the program text. -/
def Fault.isEnd : Fault → Bool
  | .raised _ _ _ => true
  | .endOfText _ => true
  | .outsideData _ => false

/-- From `s` to `t` at most the named registers and the bytes at the named addresses change, beside `pc`, SR and
the count of draws: every other register, byte of memory, floating-point register and special register is as
it was. -/
structure Frame (regs : List RegName) (addrs : List Addr) (s t : State) : Prop where
  reg : ∀ r, r ∉ regs → t.reg r = s.reg r
  byte : ∀ a, a ∉ addrs → t.byteAt a = s.byteAt a
  usp : t.usp = s.usp
  fpr : t.fpr = s.fpr
  fpcc : t.fpcc = s.fpcc
  pcr : t.pcr = s.pcr
  counters : t.counters = s.counters
  text : t.text = s.text
  regions : t.regions = s.regions
  cfg : t.cfg = s.cfg

/-- The same where the floating-point registers named and the floating-point condition bits may change too, and
SR may not. -/
structure FpFrame (regs : List RegName) (fps : List Reg3) (addrs : List Addr) (s t : State) : Prop where
  reg : ∀ r, r ∉ regs → t.reg r = s.reg r
  byte : ∀ a, a ∉ addrs → t.byteAt a = s.byteAt a
  usp : t.usp = s.usp
  fpr : ∀ n : Reg3, n ∉ fps → t.fpr[n.toNat]'n.isLt = s.fpr[n.toNat]'n.isLt
  sr : t.sr = s.sr
  pcr : t.pcr = s.pcr
  counters : t.counters = s.counters
  text : t.text = s.text
  regions : t.regions = s.regions
  cfg : t.cfg = s.cfg

/-- The addresses of the bytes of a location of a size: none for a register or an immediate. -/
def Loc.addrs (sz : Size) : Loc → List Addr
  | .reg _ => []
  | .mem a => span a sz.bytes
  | .imm _ => []

/-- The register a location is. -/
def Loc.regs : Loc → List RegName
  | .reg r => [r]
  | .mem _ => []
  | .imm _ => []

/-- What a location holds: the low bytes of a register, bytes of memory, or the immediate (rule R98). -/
def Loc.value (sz : Size) (l : Loc) (s : State) : QWord :=
  match l with
  | .reg r => lowBytes sz (s.quad r)
  | .mem a => s.sizedAt sz a
  | .imm v => lowBytes sz v

/-- All these addresses may be read (rule R72). -/
abbrev Readable (as : List Addr) (s : State) : Prop := ∀ a ∈ as, s.inData a = true

/-- All these addresses may be written: data addresses, and no program text (rules R72, R80). -/
abbrev Writable (as : List Addr) (s : State) : Prop := ∀ a ∈ as, s.inData a = true ∧ s.inText a = false

/-- The address register that modes (An)+ and -(An) change (rule R92). -/
def steppedEa : Ea → List RegName
  | .postinc n => [.a n]
  | .predec n => [.a n]
  | _ => []

/-- The address register that modes (An)+, -(An), (Bn)+ and -(Bn) change (rule R223). -/
def steppedVea : Vea → List RegName
  | .postinc r => [baseReg r]
  | .predec r => [baseReg r]
  | _ => []

/-- Bits 63-32 of a register after a write of 32 bits or fewer: kept under `UPPER32 = preserve`, zero under `zero`,
and nothing is said of them under `unspecified` (rule R24, decision D7). -/
def UpperAsConfigured (s t : State) (r : RegName) : Prop :=
  (s.cfg.upper32 = .preserve → (t.reg r).hi = (s.reg r).hi) ∧ (s.cfg.upper32 = .zero → (t.reg r).hi = 0)

/-- What a write of the low bytes of a size leaves of a register: the bits above them up to 31 as they were, bits
63-32 as `UPPER32` says; a quad leaves nothing (rule R24). -/
def KeepsAbove (sz : Size) (s t : State) (r : RegName) : Prop :=
  sz ≠ .q → (t.long r) >>> (8 * sz.bytes) = (s.long r) >>> (8 * sz.bytes) ∧ UpperAsConfigured s t r

/-- An instruction whose destination is the location `l`, of size `sz`: it completes, the location holds `v`, a
register keeps what a write of that size leaves, SR is `sr`, `pc` is past its `n` bytes, the address register its mode
changes is as forming the address left it, and nothing else changes. -/
def WritesTo (i : Instr) (s : State) (sz : Size) (l : Located) (stepped : List RegName) (v : QWord)
    (sr : StatusReg) (n : Nat) : Prop :=
  ∃ t, exec i s = .next t ∧ l.loc.value sz t = v ∧ t.sr = sr ∧ t.pc = s.pc + BitVec.ofNat 32 n ∧
    Frame (stepped ++ l.loc.regs) (l.loc.addrs sz) s t ∧ (∀ r ∈ stepped, t.long r = l.st.long r) ∧
    ∀ r ∈ l.loc.regs, KeepsAbove sz s t r

/-- An instruction that writes the low long of a register and stores nothing: it completes, the register's long
is `v`, its bits 63-32 are as `UPPER32` says, SR is `sr`, `pc` is past it, and nothing else but a stepped address
register changes. -/
def WritesLong (i : Instr) (s : State) (l : Located) (stepped : List RegName) (r : RegName) (v : Long)
    (sr : StatusReg) (n : Nat) : Prop :=
  ∃ t, exec i s = .next t ∧ t.long r = v ∧ t.sr = sr ∧ t.pc = s.pc + BitVec.ofNat 32 n ∧
    Frame (r :: stepped) [] s t ∧ UpperAsConfigured s t r ∧ ∀ x ∈ stepped, x ≠ r → t.long x = l.st.long x

/-- An AMMX instruction with result in one register: `a` is its `<vea>` operand, `bv` the register `b`; it
completes, the quad of `d` stands to `a` and `bv` as `P` says, SR is unchanged, `pc` is past it, and nothing
else but a stepped address register changes (rules R105, R220, R223). -/
def AmmxTo (i : Instr) (vea : Vea) (b d : Reg5) (P : QWord → QWord → QWord → Prop) : Prop :=
  ∀ s : State, Readable ((veaAt vea s).loc.addrs .q) s →
    ∃ t, exec i s = .next t ∧ P ((veaAt vea s).loc.value .q s) (s.quad (.d b)) (t.quad (.d d)) ∧ t.sr = s.sr ∧
      t.pc = s.pc + BitVec.ofNat 32 (4 + 2 * vea.extWords) ∧ Frame (.d d :: steppedVea vea) [] s t ∧
      ∀ r ∈ steppedVea vea, t.long r = (veaAt vea s).st.long r

/-- An AMMX instruction with result in the pair `d`, `d + 1` (rule R222). -/
def AmmxToPair (i : Instr) (vea : Vea) (b d : Reg5) (P Q : QWord → QWord → QWord → Prop) : Prop :=
  ∀ s : State, d.getLsbD 0 = false → Readable ((veaAt vea s).loc.addrs .q) s →
    ∃ t, exec i s = .next t ∧ P ((veaAt vea s).loc.value .q s) (s.quad (.d b)) (t.quad (.d d)) ∧
      Q ((veaAt vea s).loc.value .q s) (s.quad (.d b)) (t.quad (.d (d + 1))) ∧ t.sr = s.sr ∧
      t.pc = s.pc + BitVec.ofNat 32 (4 + 2 * vea.extWords) ∧ Frame (.d d :: .d (d + 1) :: steppedVea vea) [] s t ∧
      ∀ r ∈ steppedVea vea, t.long r = (veaAt vea s).st.long r

/-- The words of an AMMX instruction of three operands decode to it under any parameters, whatever follows: word 1
`$FE00 | A<<8 | B<<7 | D<<6 | mode<<3 | reg`, word 2 `b<<12 | d<<8 | op`, the words of the `<vea>` (42_ammx_1.md;
rule R91). -/
def AmmxWords (i : Instr) (op : Byte) (vea : Vea) (b d : Reg5) : Prop :=
  ∀ (cfg : Config) (ws : List Word),
    decode cfg ((0x7F#7 ++ Encode.veaA vea ++ b.extractLsb' 4 1 ++ d.extractLsb' 4 1 ++ Encode.veaMode vea ++
      Encode.veaReg vea) :: (b.extractLsb' 0 4 ++ d.extractLsb' 0 4 ++ op) :: (Encode.veaWords vea ++ ws)) = .ok i ws

/-- The words of a class R4 instruction, four consecutive source registers from `R5[grp:00]`, decode to it (rules R91,
R105). -/
def GroupWords (i : Instr) (op : Byte) (grp : BitVec 3) (d : Reg5) : Prop :=
  ∀ (cfg : Config) (ws : List Word),
    decode cfg ((0x7F#7 ++ grp.extractLsb' 2 1 ++ 0#1 ++ d.extractLsb' 4 1 ++ 0#2 ++ grp.extractLsb' 0 2 ++ 0#2) ::
      (0#4 ++ d.extractLsb' 0 4 ++ op) :: ws) = .ok i ws

/-- A step refuses the instruction for its destination wherever its words stand at an even `pc` (rules R93, R104). -/
def StepRefusesForm (i : Instr) : Prop :=
  ∀ (s : State) (w : Word) (ws rest : List Word),
    s.pc.getLsbD 0 = false → s.fetch = w :: ws → w.extractLsb' 12 4 = 0xF#4 → decode s.cfg (w :: ws) = .ok i rest →
    step s = .refused (.form .operandForm)

/-- Every byte lane of `r` stands to the lanes of `a` and `b` as `P` says (rule R221). -/
def EachByte (P : Byte → Byte → Byte → Prop) (a b r : QWord) : Prop :=
  ∀ i, i < 8 → P (laneB a i) (laneB b i) (laneB r i)

/-- Every word lane of `r` stands to the lanes of `a` and `b` as `P` says (rule R221). -/
def EachWord (P : Word → Word → Word → Prop) (a b r : QWord) : Prop :=
  ∀ i, i < 4 → P (laneW a i) (laneW b i) (laneW r i)

/-- A class S instruction that stores a whole quad: it completes, the `<vea>` location holds `v`, SR is unchanged,
`pc` is past it, and nothing else but a stepped address register changes (rules R105, R223). -/
def AmmxStores (i : Instr) (vea : Vea) (s : State) (v : QWord) : Prop :=
  WritesTo i s .q (veaAt vea s) (steppedVea vea) v s.sr (4 + 2 * vea.extWords)

/-- A masked class S instruction: a register `<vea>` takes the whole of `v`; of memory at `ea` exactly the bytes
`ea + j` with `p j` take lane `j` of `v`, and the others are as they were (rules R69, R105, R223). -/
def AmmxMasks (i : Instr) (vea : Vea) (s : State) (v : QWord) (p : Nat → Prop) : Prop :=
  ∃ t, exec i s = .next t ∧ t.sr = s.sr ∧ t.pc = s.pc + BitVec.ofNat 32 (4 + 2 * vea.extWords) ∧
    Frame (steppedVea vea ++ (veaAt vea s).loc.regs) ((veaAt vea s).loc.addrs .q) s t ∧
    (∀ r ∈ steppedVea vea, t.long r = (veaAt vea s).st.long r) ∧
    (∀ r, (veaAt vea s).loc = .reg r → t.quad r = v) ∧
    ∀ ea, (veaAt vea s).loc = .mem ea → ∀ j, j < 8 →
      (p j → t.byteAt (ea + BitVec.ofNat 32 j) = laneB v j) ∧
      (¬ p j → t.byteAt (ea + BitVec.ofNat 32 j) = s.byteAt (ea + BitVec.ofNat 32 j))

/-! ### Numbers -/

/-- The number a finite double stands for: `(-1)^S * 1.f * 2^(E-1023)`, or `0.f * 2^-1022` when `E = 0`
(rule R321). -/
def dblNumber (x : QWord) : ℚ :=
  let e := (x.extractLsb' 52 11).toNat
  let f := (x.extractLsb' 0 52).toNat
  (if x.msb then -1 else 1) *
    (if e = 0 then (f : ℚ) * 2 ^ (-1074 : Int) else ((2 ^ 52 + f : Nat) : ℚ) * 2 ^ ((e : Int) - 1075))

/-- The number a finite binary32 value stands for (rule R321). -/
def sglNumber (v : Long) : ℚ :=
  let e := (v.extractLsb' 23 8).toNat
  let f := (v.extractLsb' 0 23).toNat
  (if v.msb then -1 else 1) *
    (if e = 0 then (f : ℚ) * 2 ^ (-149 : Int) else ((2 ^ 23 + f : Nat) : ℚ) * 2 ^ ((e : Int) - 150))

/-- Exponent field of a double all ones: infinity or NaN. -/
def dblSpecial (x : QWord) : Prop := x.extractLsb' 52 11 = 0x7FF

/-- Exponent field of a single all ones. -/
def sglSpecial (v : Long) : Prop := v.extractLsb' 23 8 = 0xFF

/-- A number truncated toward zero (rule R329). -/
def towardZero (q : ℚ) : Int := if 0 ≤ q then ⌊q⌋ else ⌈q⌉

/-- The double `x` is what an FMOVE operand `v` of a format converts to (rule R325): the double of an integer's
number; of a single's number, an infinity of an infinity, a NaN of a NaN; a double's own bits. -/
def Converted (fmt : FpFmt) (v x : QWord) : Prop :=
  match fmt with
  | .b => ¬ dblSpecial x ∧ dblNumber x = ((v.extractLsb' 0 8).toInt : ℚ) ∧ (dblNumber x = 0 → x = 0)
  | .w => ¬ dblSpecial x ∧ dblNumber x = ((v.extractLsb' 0 16).toInt : ℚ) ∧ (dblNumber x = 0 → x = 0)
  | .l => ¬ dblSpecial x ∧ dblNumber x = ((v.extractLsb' 0 32).toInt : ℚ) ∧ (dblNumber x = 0 → x = 0)
  | .s =>
    let w : Long := v.extractLsb' 0 32
    (¬ sglSpecial w → ¬ dblSpecial x ∧ dblNumber x = sglNumber w ∧ x.msb = w.msb) ∧
      (sglSpecial w → dblSpecial x ∧ (x.extractLsb' 0 52 = 0#52 ↔ w.extractLsb' 0 23 = 0#23) ∧
        (w.extractLsb' 0 23 = 0#23 → x.msb = w.msb))
  | .d => x = v

/-- The double `x` is `y` rounded to single precision in one direction or the other (rule R326, decision D52): `y`
itself when it is a single number or an infinity, a NaN for a NaN; else, of its sign, a single number with no
single strictly between the two, or an infinity when every single is smaller than `y` in magnitude. -/
def RoundedToSingle (y x : QWord) : Prop :=
  (∀ w : Long, ¬ sglSpecial w → ¬ dblSpecial y → dblNumber y = sglNumber w → w.msb = y.msb → x = y) ∧
  (¬ dblSpecial y → x.msb = y.msb ∧
    ((¬ dblSpecial x ∧ (∃ w : Long, ¬ sglSpecial w ∧ dblNumber x = sglNumber w) ∧
        ∀ w : Long, ¬ sglSpecial w →
          ¬ (dblNumber y < sglNumber w ∧ sglNumber w < dblNumber x) ∧
          ¬ (dblNumber x < sglNumber w ∧ sglNumber w < dblNumber y)) ∨
      (dblSpecial x ∧ x.extractLsb' 0 52 = 0#52 ∧
        ∀ w : Long, ¬ sglSpecial w → |sglNumber w| < |dblNumber y|))) ∧
  (dblSpecial y → y.extractLsb' 0 52 = 0#52 → x = y) ∧
  (dblSpecial y → y.extractLsb' 0 52 ≠ 0#52 → dblSpecial x ∧ x.extractLsb' 0 52 ≠ 0#52)

/-- The value `r`, zero-extended, is what FMOVE writes of the double `x` in a format (rule R327): an integer of its
number when it is one in the signed range; a single of its number and sign when there is one, an infinity of
an infinity, a NaN of a NaN; its own bits. Of any other value nothing is said. -/
def StoredAs (fmt : FpFmt) (x r : QWord) : Prop :=
  match fmt with
  | .b => ∀ k : Int, ¬ dblSpecial x → dblNumber x = (k : ℚ) → -2 ^ 7 ≤ k → k < 2 ^ 7 → (r.toNat : Int) = k % 2 ^ 8
  | .w => ∀ k : Int, ¬ dblSpecial x → dblNumber x = (k : ℚ) → -2 ^ 15 ≤ k → k < 2 ^ 15 → (r.toNat : Int) = k % 2 ^ 16
  | .l => ∀ k : Int, ¬ dblSpecial x → dblNumber x = (k : ℚ) → -2 ^ 31 ≤ k → k < 2 ^ 31 → (r.toNat : Int) = k % 2 ^ 32
  | .s =>
    (∀ w : Long, ¬ sglSpecial w → ¬ dblSpecial x → dblNumber x = sglNumber w → w.msb = x.msb →
      r = w.setWidth 64) ∧
    (dblSpecial x → x.extractLsb' 0 52 = 0#52 → r.extractLsb' 0 31 = 0x7F800000#31 ∧ r.getLsbD 31 = x.msb) ∧
    (dblSpecial x → x.extractLsb' 0 52 ≠ 0#52 → r.extractLsb' 23 8 = 0xFF#8 ∧ r.extractLsb' 0 23 ≠ 0#23)
  | .d => r = x

/-- The condition bits `N Z I nan` of a value in the double layout (rule R322). -/
def FpccFor (f : FpCc) (x : QWord) : Prop :=
  f.n = x.msb ∧ f.z = decide (x.extractLsb' 0 63 = 0) ∧
    f.i = decide (x.extractLsb' 52 11 = 0x7FF ∧ x.extractLsb' 0 52 = 0) ∧
    f.nan = decide (x.extractLsb' 52 11 = 0x7FF ∧ x.extractLsb' 0 52 ≠ 0)

/-- The register a 6-bit index value selects; 24 to 39 select none (rule R27). -/
def sixBitReg (v : Nat) : Option RegName :=
  if v < 8 then some (.d (BitVec.ofNat 5 v))
  else if v < 16 then some (.a (BitVec.ofNat 3 (v - 8)))
  else if v < 24 then some (.b (BitVec.ofNat 3 (v - 16)))
  else if v < 40 then none
  else if v < 64 then some (.d (BitVec.ofNat 5 (v - 40 + 8)))
  else none

/-- The sixteen conditions by the code of the condition field: T, F, HI, LS, CC, CS, NE, EQ, VC, VS, PL, MI, GE, LT,
GT, LE (rule R34). -/
def conditionTable (f : StatusReg) : List Bool :=
  [true, false, !f.c && !f.z, f.c || f.z, !f.c, f.c, !f.z, f.z, !f.v, f.v, !f.n, f.n, f.n == f.v, f.n != f.v,
   !f.z && f.n == f.v, f.z || f.n != f.v]

/-- The fourteen Bcc with the condition each tests (rule R34). -/
def bccTable : List ((Byte → Instr) × (StatusReg → Bool)) :=
  [(.bhi, fun f => !f.c && !f.z), (.bls, fun f => f.c || f.z), (.bcc, fun f => !f.c), (.bcs, fun f => f.c),
   (.bne, fun f => !f.z), (.beq, fun f => f.z), (.bvc, fun f => !f.v), (.bvs, fun f => f.v),
   (.bpl, fun f => !f.n), (.bmi, fun f => f.n), (.bge, fun f => f.n == f.v), (.blt, fun f => f.n != f.v),
   (.bgt, fun f => !f.z && f.n == f.v), (.ble, fun f => f.z || f.n != f.v)]

/-- The event counters with their MOVEC numbers and their fields (rule R36). -/
def counterTable : List (BitVec 12 × (Counters → Long)) :=
  [(0x809, (·.ccc)), (0x80A, (·.iep1)), (0x80B, (·.iep2)), (0x80C, (·.bpc)), (0x80D, (·.bpw)), (0x80E, (·.dch)),
   (0x80F, (·.dcm)), (0x00A, (·.str)), (0x00B, (·.stc)), (0x00C, (·.sth)), (0x00D, (·.stb)), (0x00E, (·.mwr))]

/-- The instructions that write `pc` themselves (rule R29). -/
def branches : Instr → Bool
  | .bhi _ | .bls _ | .bcc _ | .bcs _ | .bne _ | .beq _ | .bvc _ | .bvs _ | .bpl _ | .bmi _ | .bge _ | .blt _
  | .bgt _ | .ble _ | .bra _ | .bsr _ | .dbccL _ _ _ | .fdbccL _ _ _ => true
  | _ => false

/-- The AMMX instructions (rule R220): every one of 42_ammx_1.md and 43_ammx_2.md. -/
def isAmmx : Instr → Bool
  | .bflyb _ _ _ | .bflyw _ _ _ | .bsel _ _ _ | .c2p _ _ | .load _ _ | .loadi _ _ | .lslq _ _ _ | .lsrq _ _ _
  | .minterm _ _ | .pack3216 _ _ _ | .packuswb _ _ _ | .paddb _ _ _ | .paddw _ _ _ | .paddusb _ _ _
  | .paddusw _ _ _ | .pand _ _ _ | .pandn _ _ _ | .pavgb _ _ _ | .pcmpeqb _ _ _ | .pcmphib _ _ _
  | .pcmpgeb _ _ _ | .pcmpgtb _ _ _ | .pcmpeqw _ _ _ | .pcmphiw _ _ _ | .pcmpgew _ _ _ | .pcmpgtw _ _ _
  | .peor _ _ _ | .pmaxsb _ _ _ | .pmaxub _ _ _ | .pmaxsw _ _ _ | .pmaxuw _ _ _ | .pminsb _ _ _
  | .pminub _ _ _ | .pminsw _ _ _ | .pminuw _ _ _ | .pmul88 _ _ _ | .pmulh _ _ _ | .pmull _ _ _
  | .pmula _ _ _ | .por _ _ _ | .psubb _ _ _ | .psubw _ _ _ | .psubusb _ _ _ | .psubusw _ _ _ | .store _ _
  | .storec _ _ _ | .storei _ _ | .storeilm _ _ _ | .storem _ _ _ | .storem3 _ _ _ _ | .tex _ _ _ _ _ _ _ _
  | .texB _ _ _ _ _ | .transhi _ _ | .translo _ _ | .unpack1632 _ _ | .vperm _ _ _ _ => true
  | _ => false

/-- The floating-point instructions (44_float.md). -/
def isFloat : Instr → Bool
  | .fdbccL _ _ _ | .fmoveEaFp _ _ _ _ | .fmoveFpEa _ _ _ | .fmoverz _ _ _ | .fmoveurz _ _ _ | .floadi _ _ _ _ _
  | .fstorei _ _ _ _ => true
  | _ => false

end Sys2Proof.Machine
end

