-- ==== Sys2Proof/Certificates/Slice0/Obligations.lean ====
section
/-!
DEFINITION. The statements for the provers, from the numbered rules of spec/. Each docstring names the rules a
statement formalises and the choices of the model or of the spec it rests on (log entries of
notes/assumptions).
-/

section

open Sys2Proof Sys2Proof.Machine

/-! ### Encoding -/

/-- Decoding the words of a well-formed instruction gives it back, whatever words follow, under every value of
the parameters: no bit of an encoding is dropped (30_encoding.md). -/
def Obligations.DecodingTheEncodingGivesTheInstruction : Prop :=
  ∀ (cfg : Config) (i : Instr) (rest : List Word),
    i.wellFormed cfg = true → decode cfg (encode cfg i ++ rest) = .ok i rest

/-- Words the spec prints decode to the instructions it prints beside them (worked lines of rules R131, R145,
R172, R199, R205, R208, R212, R227, R233, R293, R310, R323, R328). -/
def Obligations.PrintedWordsDecodeToTheirInstructions : Prop :=
  decode .default [0x06C0, 0x8001] = .ok (.addiw 0x8001 (.dn 0)) [] ∧
  decode .default [0x6103] = .ok (.bsr 0x03) [] ∧
  decode .default [0x1009] = .ok (.moveBnEa 1 (.dn 0)) [] ∧
  decode .default [0x0E88, 0x9010] = .ok (.movex .l false 9 (.an 0)) [] ∧
  decode .default [0x0E50, 0x20D2] = .ok (.movz2 .w 2 3 (.ind 0)) [] ∧
  decode .default [0x7141, 0x4CC8, 0x16D5] = .ok (.bank ⟨0, 1, 0, 0, 1⟩ (.perm 8 1 3 3 2 5)) [] ∧
  decode .default [0xF631, 0x1D20, 0x1770] =
    .ok (.touchIndex 1 (.full ⟨false, 1, true, 2, false, false, .word 0x1770, .none⟩)) [] ∧
  decode .default [0xFE90, 0x081D] = .ok (.bflyw (.ind (.a 0)) 16 8) [] ∧
  decode .default [0xFF3C, 0x0101, 0x1234] = .ok (.load (.immW 0x1234) 1) [] ∧
  decode .default [0xFF11, 0x8004] = .ok (.store 8 (.ind (.b 1))) [] ∧
  decode .default [0xFE3F, 0x9E00, 0x3210, 0xAB78] = .ok (.vperm 0 9 14 0x3210AB78) [] ∧
  decode .default [0xF249, 0x000E, 0xFFF9] = .ok (.fdbccL 0x0E 1 0xFFF9) [] ∧
  decode .default [0x7146, 0xF202, 0x5400] = .ok (.floadi ⟨0, 1, 0, 1, 2⟩ .d .default 2 0) []

/-- Refused words: an AMMX word 2 with bits 7-6 not 00, but for VPERM (rule R101; decision D41 of the spec), and
a Line-A word of no assigned pattern, which is judged unassigned (rule R108; decision D9). -/
def Obligations.UnassignedLineAAndMBitWordsAreRejected : Prop :=
  (∀ (cfg : Config) (w w2 : Word) (ws : List Word),
      w.extractLsb' 9 7 = 0x7F#7 → w.extractLsb' 0 6 ≠ 0x3F#6 → w2.extractLsb' 6 2 ≠ 0#2 →
      decode cfg (w :: w2 :: ws) = .reject .ammxM) ∧
  ∀ (cfg : Config) (w : Word) (ws : List Word),
    w.extractLsb' 12 4 = 0xA#4 →
    w.extractLsb' 6 3 = 2#3 ∨ w.extractLsb' 6 3 = 3#3 ∨
      (w.extractLsb' 6 3 = 0#3 ∧ w.extractLsb' 9 3 ≠ 1#3 ∧ w.extractLsb' 9 3 ≠ 7#3) →
    decode cfg (w :: ws) = .reject .lineAUnassigned

/-- Every well-formed instruction that is no branch and completes leaves `pc` at the address after its last
word (rules R13, R29). -/
def Obligations.NextIsTheAddressAfterTheLastWord : Prop :=
  ∀ (i : Instr) (s t : State),
    i.wellFormed s.cfg = true → branches i = false → exec i s = .next t →
    t.pc = s.pc + BitVec.ofNat 32 (2 * (encode s.cfg i).length)

/-! ### The step -/

/-- When the words at an even `pc` decode to a well-formed instruction, and are no Line-A word met with the
apollo-bit clear, a step is that instruction's meaning, followed by the trace exception when SR bit 15 was set
and the instruction traces (rules R17, R360, R364; that the Trace fault carries the state after the instruction,
where rule R350 and decision D5 speak of the state before, is log entry 29). -/
def Obligations.StepRunsTheDecodedInstruction : Prop :=
  ∀ (s : State) (i : Instr) (w : Word) (ws rest : List Word),
    s.pc.getLsbD 0 = false → s.fetch = w :: ws →
    (w.extractLsb' 12 4 = 0xA#4 → s.sr.word.getLsbD 11 = true) →
    decode s.cfg (w :: ws) = .ok i rest → i.wellFormed s.cfg = true →
    step s =
      match exec i s with
      | .next t => if s.sr.word.getLsbD 15 && !untraced i s then .fault (.raised .trace t.pc t) else .next t
      | .fault f => .fault f
      | .refused r => .refused r

/-- The words a step decodes are those of the program text from `pc` on, most significant byte first, and no more: they
end where the text ends and at seven words, the longest instruction (rules R61, R90; that no word is read from beyond
the text is log entry 26). -/
def Obligations.FetchReadsTheProgramText : Prop :=
  ∀ (s : State) (n : Nat),
    (n < 7 → (∀ k, k < 2 * n + 2 → s.inText (s.pc + BitVec.ofNat 32 k) = true) →
      s.fetch[n]? =
        some (s.byteAt (s.pc + BitVec.ofNat 32 (2 * n)) ++ s.byteAt (s.pc + BitVec.ofNat 32 (2 * n + 1)))) ∧
    (7 ≤ n ∨ (∃ k, k < 2 * n + 2 ∧ s.inText (s.pc + BitVec.ofNat 32 k) = false) → s.fetch[n]? = none)

/-- A Line-A word raises LineA while the apollo-bit is clear, and an unassigned one in any state; nothing of
the state has changed (rules R350, R353; decisions D5 and D9 of the spec). -/
def Obligations.LineAWordsRaiseLineA : Prop :=
  ∀ (s : State) (w : Word) (ws : List Word),
    s.pc.getLsbD 0 = false → s.fetch = w :: ws → w.extractLsb' 12 4 = 0xA#4 →
    s.sr.word.getLsbD 11 = false ∨ w.extractLsb' 6 3 = 2#3 ∨ w.extractLsb' 6 3 = 3#3 ∨
      (w.extractLsb' 6 3 = 0#3 ∧ w.extractLsb' 9 3 ≠ 1#3 ∧ w.extractLsb' 9 3 ≠ 7#3) →
    step s = .fault (.raised .lineA s.pc s)

/-- Which instructions do not trace (rules R34, R362): ORI to SR, FDBcc.L, a DBcc.L that falls through, a Bcc whose
condition is false; every other instruction traces. -/
def Obligations.UntracedInstructionsAreTheSpecialCases : Prop :=
  (∀ imm s, untraced (.oriSr imm) s = true) ∧
  (∀ p dn w s, untraced (.fdbccL p dn w) s = true) ∧
  (∀ cc dn w s, untraced (.dbccL cc dn w) s =
    ((conditionTable s.sr)[cc.toNat]? == some true || s.long (.d (0#2 ++ dn)) == 0)) ∧
  (∀ e ∈ bccTable, ∀ d8 s, untraced (e.1 d8) s = !e.2 s.sr) ∧
  ∀ i s, (∀ imm, i ≠ .oriSr imm) → (∀ p dn w, i ≠ .fdbccL p dn w) → (∀ cc dn w, i ≠ .dbccL cc dn w) →
    (∀ e ∈ bccTable, ∀ d8, i ≠ e.1 d8) → untraced i s = false

/-- An odd `pc` raises AddressError with the odd address, before anything is fetched (rules R65, R351, R364; decision
D4 of the spec), and a run ends when an even `pc` leaves the program text (rule R384; decision D38). -/
def Obligations.OddPcFaultsAndRunsEndOutsideTheText : Prop :=
  ∀ s : State,
    (s.pc.getLsbD 0 = true → step s = .fault (.raised .addressError s.pc s)) ∧
    (s.pc.getLsbD 0 = false → s.inText s.pc = false → step s = .fault (.endOfText s.pc))

/-- Every step keeps what every reachable state is: `pc` stays even and memory keeps its canonical form, from
every state that has them. -/
def Obligations.StepKeepsPcEvenAndMemoryCanonical : Prop :=
  ∀ s t : State, Inv s → step s = .next t → Inv t

/-- The reset state has an even `pc` and memory in its canonical form. -/
def Obligations.ResetHasEvenPcAndCanonicalMemory : Prop := Inv State.reset

/-- No step changes the user stack pointer, the parameters, the addresses of the program text, the data addresses or a
bit of SR's system byte but the apollo-bit: the mode and the trace bit of a run are those it began with; and every byte
of the program text stays as it was (rules R39, R80, R355, R360, R381; decision D32 of the spec). -/
def Obligations.StepKeepsModeTraceBitTextAndParameters : Prop :=
  ∀ s t : State, step s = .next t →
    Fixed s t ∧ (s.mem.wf = true → ∀ a, s.inText a = true → t.byteAt a = s.byteAt a)

/-- No AMMX instruction changes a flag, any other bit of SR, the floating-point condition bits, PCR or a counter
(rule R220). -/
def Obligations.AmmxChangesNoFlagAndNoSpecialRegister : Prop :=
  ∀ (i : Instr) (s t : State), isAmmx i = true → exec i s = .next t →
    t.sr = s.sr ∧ t.fpcc = s.fpcc ∧ t.pcr = s.pcr ∧ t.counters = s.counters

/-! ### Memory and operands -/

/-- A quad stored reads back big-endian: its bytes from the most significant, its longs and words at the
addresses rule R60 puts them; every other byte is as it was (rules R60, R62, R64). -/
def Obligations.StoredQuadReadsBackBigEndian : Prop :=
  ∀ (s : State) (p : Addr) (v : QWord),
    s.mem.wf = true → Writable (span p 8) s →
    ∃ t, writeMem .q p v s = .next t ∧ readMem .q p t = .next v ∧
      readMem .l p t = .next ((v.extractLsb' 32 32).setWidth 64) ∧
      readMem .l (p + 4) t = .next ((v.extractLsb' 0 32).setWidth 64) ∧
      (∀ j, j < 4 → readMem .w (p + BitVec.ofNat 32 (2 * j)) t = .next ((v.extractLsb' (48 - 16 * j) 16).setWidth 64)) ∧
      (∀ j, j < 8 → t.byteAt (p + BitVec.ofNat 32 j) = v.extractLsb' (56 - 8 * j) 8) ∧
      Frame [] (span p 8) s t ∧ t.sr = s.sr ∧ t.pc = s.pc

/-- A store of any size, masked or not, that would touch a byte of the program text is refused (rule R80; decision D32
of the spec), one that would leave the data addresses has no step, and a read outside them has none (rule R72;
decision D45); that the text is asked first is log entries 12 and 13. So no step, of whatever instruction, changes a
byte
of the program text or a byte outside the data addresses. -/
def Obligations.StoresIntoTextAndOutsideDataStop : Prop :=
  let intoText (s : State) (as : List Addr) (o : Res State) : Prop :=
    (∃ a ∈ as, s.inText a = true) → ∃ a ∈ as, s.inText a = true ∧ o = .refused (.storeIntoText a)
  let outside (s : State) (as : List Addr) (o : Res State) : Prop :=
    (∀ a ∈ as, s.inText a = false) → (∃ a ∈ as, s.inData a = false) →
      ∃ a ∈ as, s.inData a = false ∧ o = .fault (.outsideData a)
  (∀ (s : State) (sz : Size) (ea : Addr) (v : QWord),
    intoText s (span ea sz.bytes) (writeMem sz ea v s) ∧ outside s (span ea sz.bytes) (writeMem sz ea v s)) ∧
  (∀ (s : State) (ea : Addr) (bs : List (Option Byte)),
    intoText s (written ea bs) (storeBytes ea bs s) ∧ outside s (written ea bs) (storeBytes ea bs s)) ∧
  (∀ (s : State) (sz : Size) (ea : Addr), (∃ a ∈ span ea sz.bytes, s.inData a = false) →
      ∃ a ∈ span ea sz.bytes, s.inData a = false ∧ readMem sz ea s = .fault (.outsideData a)) ∧
  (∀ (s : State) (n : Nat) (ea : Addr), (∃ a ∈ span ea n, s.inData a = false) →
      ∃ a ∈ span ea n, s.inData a = false ∧ readBytes n ea s = .fault (.outsideData a)) ∧
  (∀ (s : State) (b : Reg5) (vea : Vea) (ea : Addr), (veaAt vea s).loc = .mem ea →
      intoText s (span ea 8) (exec (.store b vea) s) ∧ outside s (span ea 8) (exec (.store b vea) s)) ∧
  (∀ (s : State) (d : Reg5) (vea : Vea) (ea : Addr), (veaAt vea s).loc = .mem ea →
      (∃ a ∈ span ea 8, s.inData a = false) →
      ∃ a ∈ span ea 8, s.inData a = false ∧ exec (.load vea d) s = .fault (.outsideData a)) ∧
  ∀ s t : State, s.mem.wf = true → step s = .next t →
    ∀ a, s.inText a = true ∨ s.inData a = false → t.byteAt a = s.byteAt a

/-- The legacy effective address, mode by mode (rules R92, R94, R99): the location, and for (An)+ and -(An) the
register stepped by the operand's size, 2 for a byte and A7 (the steps: decision D49 of the spec, log entry 34; the
address register of mode 001, the byte step of A7 and the brief extension word: its general knowledge G5, log entry 32;
the pc base: G4, log entry 31). -/
def Obligations.EffectiveAddressesFollowTheModeTable : Prop :=
  ∀ (sz : Size) (ext : Addr) (xx : BitVec 2) (s : State),
    let step (n : Reg3) : Addr := if sz = .b ∧ n = 7 then 2 else BitVec.ofNat 32 sz.bytes
    let index (e : Brief) : Addr :=
      let x := s.long (if e.da then .a e.xn else .d (0#2 ++ e.xn))
      (if e.wl then x else (x.extractLsb' 0 16).signExtend 32) * 2 ^ e.scale.toNat + e.d8.signExtend 32
    (∀ n, locate sz ext xx (.dn n) s = ⟨.reg (.d (xx ++ n)), s⟩) ∧
    (∀ n, locate sz ext xx (.an n) s = ⟨.reg (.a n), s⟩) ∧
    (∀ n, locate sz ext xx (.ind n) s = ⟨.mem (s.long (.a n)), s⟩) ∧
    (∀ n, (locate sz ext xx (.postinc n) s).loc = .mem (s.long (.a n)) ∧
      (locate sz ext xx (.postinc n) s).st.long (.a n) = s.long (.a n) + step n ∧
      Frame [.a n] [] s (locate sz ext xx (.postinc n) s).st) ∧
    (∀ n, (locate sz ext xx (.predec n) s).loc = .mem (s.long (.a n) - step n) ∧
      (locate sz ext xx (.predec n) s).st.long (.a n) = s.long (.a n) - step n ∧
      Frame [.a n] [] s (locate sz ext xx (.predec n) s).st) ∧
    (∀ n d, locate sz ext xx (.disp n d) s = ⟨.mem (s.long (.a n) + d.signExtend 32), s⟩) ∧
    (∀ n e, locate sz ext xx (.index n e) s = ⟨.mem (s.long (.a n) + index e), s⟩) ∧
    (∀ w, locate sz ext xx (.absW w) s = ⟨.mem (w.signExtend 32), s⟩) ∧
    (∀ l, locate sz ext xx (.absL l) s = ⟨.mem l, s⟩) ∧
    (∀ d, locate sz ext xx (.pcDisp d) s = ⟨.mem (ext + d.signExtend 32), s⟩) ∧
    (∀ e, locate sz ext xx (.pcIndex e) s = ⟨.mem (ext + index e), s⟩) ∧
    ∀ v, locate sz ext xx (.imm v) s = ⟨.imm v, s⟩

/-- The vector effective address of the instruction at `pc` (rules R102, R103, R104, R223): base registers A or B, steps
of 8 for every register, `#imm.W` repeated four times, the pc base at the extension word. That register 7 too steps by
8 is decision D49 of the spec, that the pc base is the extension word's address decision D27 (log entry 34). -/
def Obligations.VectorEffectiveAddressesFollowTheTable : Prop :=
  ∀ (s : State) (r : Base),
    let base : RegName := match r with | .a n => .a n | .b n => .b n
    (∀ k, veaAt (.reg k) s = ⟨.reg (.d k), s⟩) ∧
    veaAt (.ind r) s = ⟨.mem (s.long base), s⟩ ∧
    ((veaAt (.postinc r) s).loc = .mem (s.long base) ∧ (veaAt (.postinc r) s).st.long base = s.long base + 8 ∧
      Frame [base] [] s (veaAt (.postinc r) s).st) ∧
    ((veaAt (.predec r) s).loc = .mem (s.long base - 8) ∧ (veaAt (.predec r) s).st.long base = s.long base - 8 ∧
      Frame [base] [] s (veaAt (.predec r) s).st) ∧
    (∀ d, veaAt (.disp r d) s = ⟨.mem (s.long base + d.signExtend 32), s⟩) ∧
    (∀ e, veaAt (.index r e) s = ⟨.mem (s.long base + indexOffset e s), s⟩) ∧
    (∀ w, veaAt (.absW w) s = ⟨.mem (w.signExtend 32), s⟩) ∧
    (∀ l, veaAt (.absL l) s = ⟨.mem l, s⟩) ∧
    (∀ d, veaAt (.pcDisp d) s = ⟨.mem (s.pc + 4 + d.signExtend 32), s⟩) ∧
    (∀ e, veaAt (.pcIndex e) s = ⟨.mem (s.pc + 4 + indexOffset e s), s⟩) ∧
    (∀ v, veaAt (.immQ v) s = ⟨.imm v, s⟩) ∧
    ∀ w, veaAt (.immW w) s = ⟨.imm (w ++ w ++ w ++ w), s⟩

/-- A write of a long to a register sets bits 31-0; bits 63-32 are kept under `UPPER32 = preserve` and zero under
`zero` (rule R24; decision D7 of the spec; under `unspecified` nothing is said of them). -/
def Obligations.LongWritesTreatTheUpperHalfAsConfigured : Prop :=
  ∀ (s : State) (r : RegName) (v : Long),
    (s.setLong r v).long r = v ∧
    (s.cfg.upper32 = .preserve → ((s.setLong r v).quad r).extractLsb' 32 32 = (s.quad r).extractLsb' 32 32) ∧
    (s.cfg.upper32 = .zero → ((s.setLong r v).quad r).extractLsb' 32 32 = 0) ∧
    Frame [r] [] s (s.setLong r v) ∧ (s.setLong r v).pc = s.pc ∧ (s.setLong r v).sr = s.sr

/-! ### Integer instructions -/

/-- ADDIW.L adds the sign-extended word to its destination; flags as addition (rules R33, R131; the flags are
decision D14 of the spec). -/
def Obligations.AddiwAddsTheSignExtendedWord : Prop :=
  ∀ (imm : Word) (ea : Ea) (s : State),
    let l := locate .l (s.pc + 4) 0 ea s
    let a : Long := imm.signExtend 32
    let d : Long := (l.loc.value .l s).setWidth 32
    let r := a + d
    let carry := decide (2 ^ 32 ≤ a.toNat + d.toNat)
    (Instr.addiw imm ea).wellFormed s.cfg = true → s.mem.wf = true → Writable (l.loc.addrs .l) s →
    WritesTo (.addiw imm ea) s .l l (steppedEa ea) (r.setWidth 64)
      { s.sr with x := carry, n := r.msb, z := r == 0, v := a.msb == d.msb && r.msb != d.msb, c := carry }
      (4 + 2 * ea.extWords .l)

/-- ADDQ.L and SUBQ.L add and subtract 1 to 8 to and from a B register; flags as addition and subtraction, or
unchanged, as `ADDQ_BN_SETS_CC` says (rules R132, R210; decision D15 of the spec). -/
def Obligations.AddqAndSubqChangeABRegister : Prop :=
  ∀ (data : BitVec 3) (bn : Reg3) (s : State),
    let q : Long := if data = 0 then 8 else data.setWidth 32
    let d := s.long (.b bn)
    let carry := decide (2 ^ 32 ≤ q.toNat + d.toNat)
    let borrow := decide (d.toNat < q.toNat)
    let l : Located := ⟨.imm 0, s⟩
    WritesLong (.addqBn data bn) s l [] (.b bn) (d + q)
      (if s.cfg.addqBnSetsCc then
        { s.sr with x := carry, n := (d + q).msb, z := d + q == 0, v := q.msb == d.msb && (d + q).msb != d.msb,
                    c := carry }
       else s.sr) 2 ∧
    WritesLong (.subqBn data bn) s l [] (.b bn) (d - q)
      (if s.cfg.addqBnSetsCc then
        { s.sr with x := borrow, n := (d - q).msb, z := d - q == 0, v := q.msb != d.msb && (d - q).msb != d.msb,
                    c := borrow }
       else s.sr) 2

/-- CMP.L Bn,Dn and CMPIW.L set N, Z, V, C as the subtraction destination minus source, X stays, and no register
but a stepped one changes (rules R148, R149). -/
def Obligations.ComparesSetFlagsAsSubtraction : Prop :=
  (∀ (bn dn : Reg3) (s : State),
    let a := s.long (.b bn)
    let d := s.long (.d (0#2 ++ dn))
    exec (.cmpBnDn bn dn) s = .next ((s.setSr { s.sr with
      n := (d - a).msb, z := d - a == 0, v := a.msb != d.msb && (d - a).msb != d.msb,
      c := decide (d.toNat < a.toNat) }).setPc (s.pc + 2))) ∧
  ∀ (imm : Word) (ea : Ea) (s : State),
    let l := locate .l (s.pc + 4) 0 ea s
    let a : Long := imm.signExtend 32
    let d : Long := (l.loc.value .l s).setWidth 32
    (Instr.cmpiw imm ea).wellFormed s.cfg = true → Readable (l.loc.addrs .l) s →
    ∃ t, exec (.cmpiw imm ea) s = .next t ∧
      t.sr = { s.sr with n := (d - a).msb, z := d - a == 0, v := a.msb != d.msb && (d - a).msb != d.msb,
                         c := decide (d.toNat < a.toNat) } ∧
      t.pc = s.pc + BitVec.ofNat 32 (4 + 2 * ea.extWords .l) ∧ Frame (steppedEa ea) [] s t ∧
      ∀ r ∈ steppedEa ea, t.long r = l.st.long r

/-- CLR.B, CLR.W, CLR.L and, with the apollo-bit set, CLR.Q write zero; N = 0, Z = 1, V = C = 0 (rules R146,
R147); CLR.Q with the apollo-bit clear raises LineA. -/
def Obligations.ClrWritesZeroOfItsSize : Prop :=
  ∀ (ea : Ea) (s : State), s.mem.wf = true →
    (∀ e ∈ [(Size.b, Instr.clrB ea), (.w, .clrW ea), (.l, .clrL ea), (.q, .clrQ ea)],
      let l := locate e.1 (s.pc + 2) 0 ea s
      e.2.wellFormed s.cfg = true → Writable (l.loc.addrs e.1) s → (e.1 = .q → s.sr.word.getLsbD 11 = true) →
      WritesTo e.2 s e.1 l (steppedEa ea) 0 { s.sr with n := false, z := true, v := false, c := false }
        (2 + 2 * ea.extWords e.1)) ∧
    (s.sr.word.getLsbD 11 = false → exec (.clrQ ea) s = .fault (.raised .lineA s.pc s))

/-- EXTUB.L and EXTUW.L, `$4BC0 | rrr` and `$4DC0 | rrr`, zero-extend the low byte and word of Dn to a long; N = V =
C = 0, Z from the result, X unchanged; size codes 00 and 11 of the pattern are not decoded (rules R152, R153). -/
def Obligations.ExtuZeroExtendsToLong : Prop :=
  ∀ (dn : Reg3) (s : State),
    let r := RegName.d (0#2 ++ dn)
    let byte : Long := ((s.long r).extractLsb' 0 8).setWidth 32
    let word : Long := ((s.long r).extractLsb' 0 16).setWidth 32
    WritesLong (.extub dn) s ⟨.imm 0, s⟩ [] r byte { s.sr with n := false, z := byte == 0, v := false, c := false } 2 ∧
    WritesLong (.extuw dn) s ⟨.imm 0, s⟩ [] r word { s.sr with n := false, z := word == 0, v := false, c := false } 2 ∧
    ∀ (cfg : Config) (ws : List Word),
      decode cfg ((0x4BC0#16 ||| dn.setWidth 16) :: ws) = .ok (.extub dn) ws ∧
      decode cfg ((0x4DC0#16 ||| dn.setWidth 16) :: ws) = .ok (.extuw dn) ws ∧
      decode cfg ((0x49C0#16 ||| dn.setWidth 16) :: ws) = .reject .noRow ∧
      decode cfg ((0x4FC0#16 ||| dn.setWidth 16) :: ws) = .reject .noRow

/-- PERM picks the four bytes of the result out of the bytes of Ra then Rb, most significant first, and changes
no flag (rule R208; the numbering is decision D21 of the spec). -/
def Obligations.PermPicksBytesOfBothOperands : Prop :=
  ∀ (a b : Reg4) (p0 p1 p2 p3 : BitVec 3) (s : State),
    let ra := rn4 a
    let rb := rn4 b
    let pick (p : BitVec 3) : Byte :=
      if p.toNat < 4 then (s.long ra).extractLsb' (24 - 8 * p.toNat) 8
      else (s.long rb).extractLsb' (56 - 8 * p.toNat) 8
    WritesLong (.perm a b p0 p1 p2 p3) s ⟨.imm 0, s⟩ [] rb (pick p0 ++ pick p1 ++ pick p2 ++ pick p3) s.sr 4

/-- Bcc and BRA: with an even displacement not 0 the target is `pc + 2 + d8`; with an odd one not `$FF` the s+
ranges; the branch is taken exactly when the condition of rule R34 holds, nothing else changes; `$00` and
`$FF` are refused (rules R34, R141, R142, R143; the s+ map is decision D12 of the spec). -/
def Obligations.BranchesGoWhereTheDisplacementSays : Prop :=
  ∀ (d8 : Byte) (s : State),
    let v := d8.toInt
    let disp : Int := if d8.getLsbD 0 = false then v else if 0 < v then v + 127 else v - 129
    let target : Addr := s.pc + 2 + BitVec.ofInt 32 disp
    (d8 ≠ 0 → d8 ≠ 0xFF →
      (∀ e ∈ bccTable, exec (e.1 d8) s = .next (s.setPc (if e.2 s.sr then target else s.pc + 2))) ∧
      exec (.bra d8) s = .next (s.setPc target)) ∧
    (d8 = 0 ∨ d8 = 0xFF →
      (∀ e ∈ bccTable, exec (e.1 d8) s = .refused .legacyBranch) ∧ exec (.bra d8) s = .refused .legacyBranch ∧
      exec (.bsr d8) s = .refused .legacyBranch)

/-- BSR.S+ pushes the address of the next instruction as a long at `A7 - 4`, and branches (rule R145; the s+ map
is decision D12 of the spec). -/
def Obligations.BsrPushesTheReturnAddress : Prop :=
  ∀ (d8 : Byte) (s : State),
    let v := d8.toInt
    let disp : Int := if d8.getLsbD 0 = false then v else if 0 < v then v + 127 else v - 129
    let sp := s.long (.a 7) - 4
    d8 ≠ 0 → d8 ≠ 0xFF → s.mem.wf = true → Writable (span sp 4) s →
    ∃ t, exec (.bsr d8) s = .next t ∧ t.long (.a 7) = sp ∧ t.longAt sp = s.pc + 2 ∧
      t.pc = s.pc + 2 + BitVec.ofInt 32 disp ∧ t.sr = s.sr ∧ Frame [.a 7] (span sp 4) s t

/-- DBcc.L, `$50C8 | cccc<<8 | rrr` and an odd displacement word: with the condition of code `cccc` true it falls
through
and changes nothing; else the long counter goes down by one and the loop continues unless it reached -1; with an even
displacement word it is the legacy DBcc, which is refused (rules R34, R150; the displacement with bit 0 cleared is
decision D13). -/
def Obligations.DbccCountsALongDown : Prop :=
  ∀ (cc : BitVec 4) (dn : Reg3) (w : Word) (s : State),
    let r := RegName.d (0#2 ++ dn)
    let condition := (conditionTable s.sr)[cc.toNat]?
    (w.getLsbD 0 = true →
      (condition = some true → exec (.dbccL cc dn w) s = .next (s.setPc (s.pc + 4))) ∧
      (condition = some false →
        ∃ t, exec (.dbccL cc dn w) s = .next t ∧ t.long r = s.long r - 1 ∧ UpperAsConfigured s t r ∧ t.sr = s.sr ∧
          Frame [r] [] s t ∧ t.pc = if s.long r = 0 then s.pc + 4 else s.pc + 2 + (w &&& 0xFFFE).signExtend 32)) ∧
    ∀ (cfg : Config) (ws : List Word),
      decode cfg ((0x5#4 ++ cc ++ 0x19#5 ++ dn) :: w :: ws) =
        if w.getLsbD 0 then .ok (.dbccL cc dn w) ws else .reject .noRow

/-- LEA `<ea>`,Bn loads the address itself and makes no memory access, LEA (Bn),An copies a B register's long,
MOVEA.L `<ea>`,Bn loads the operand's long; no flag changes (rules R155, R156, R173). -/
def Obligations.LeaAndMoveaLoadAddressRegisters : Prop :=
  (∀ (ea : Ea) (bn : Reg3) (s : State) (a : Addr),
    (Instr.leaEaBn ea bn).wellFormed s.cfg = true → (locate .l (s.pc + 2) 0 ea s).loc = .mem a →
    WritesLong (.leaEaBn ea bn) s ⟨.imm 0, s⟩ [] (.b bn) a s.sr (2 + 2 * ea.extWords .l)) ∧
  (∀ (bn an : Reg3) (s : State),
    WritesLong (.leaBnAn bn an) s ⟨.imm 0, s⟩ [] (.a an) (s.long (.b bn)) s.sr 2) ∧
  ∀ (ea : Ea) (bn : Reg3) (s : State),
    let l := locate .l (s.pc + 2) 0 ea s
    (Instr.moveaEaBn ea bn).wellFormed s.cfg = true → Readable (l.loc.addrs .l) s →
    WritesLong (.moveaEaBn ea bn) s l (steppedEa ea) (.b bn) ((l.loc.value .l s).setWidth 32) s.sr
      (2 + 2 * ea.extWords .l)

/-- MOVE.L Bn,`<ea>`, and with the apollo-bit set MOV3Q and MOVIW.L, write a long to their `<ea>`; N and Z from it,
V = C = 0, X unchanged; with the apollo-bit clear MOV3Q and MOVIW.L raise LineA (rules R170, R172, R201; the
flags of MOVE Bn and MOVIW are decision D14 of the spec). -/
def Obligations.LongMovesWriteTheirValue : Prop :=
  ∀ (ea : Ea) (s : State), s.mem.wf = true →
    let flags (v : Long) : StatusReg := { s.sr with n := v.msb, z := v == 0, v := false, c := false }
    (∀ bn, let l := locate .l (s.pc + 2) 0 ea s
      (Instr.moveBnEa bn ea).wellFormed s.cfg = true → Writable (l.loc.addrs .l) s →
      WritesTo (.moveBnEa bn ea) s .l l (steppedEa ea) ((s.long (.b bn)).setWidth 64) (flags (s.long (.b bn)))
        (2 + 2 * ea.extWords .l)) ∧
    (∀ data : BitVec 3, let l := locate .l (s.pc + 2) 0 ea s
      let v : Long := if data = 0 then 0xFFFFFFFF else data.setWidth 32
      (Instr.mov3q data ea).wellFormed s.cfg = true → Writable (l.loc.addrs .l) s → s.sr.word.getLsbD 11 = true →
      WritesTo (.mov3q data ea) s .l l (steppedEa ea) (v.setWidth 64) (flags v) (2 + 2 * ea.extWords .l)) ∧
    (∀ imm : Word, let l := locate .l (s.pc + 4) 0 ea s
      let v : Long := imm.signExtend 32
      (Instr.moviw imm ea).wellFormed s.cfg = true → Writable (l.loc.addrs .l) s → s.sr.word.getLsbD 11 = true →
      WritesTo (.moviw imm ea) s .l l (steppedEa ea) (v.setWidth 64) (flags v) (4 + 2 * ea.extWords .l)) ∧
    (s.sr.word.getLsbD 11 = false →
      (∀ data, exec (.mov3q data ea) s = .fault (.raised .lineA s.pc s)) ∧
      ∀ imm, exec (.moviw imm ea) s = .fault (.raised .lineA s.pc s))

/-- MOVE SR,`<ea>` writes the 16 bits of SR in any mode and changes no flag (rule R182); the bits stand where rule
R30 puts them. -/
def Obligations.MoveSrWritesTheStatusWord : Prop :=
  (∀ (ea : Ea) (s : State),
    let l := locate .w (s.pc + 2) 0 ea s
    (Instr.moveSrEa ea).wellFormed s.cfg = true → s.mem.wf = true → Writable (l.loc.addrs .w) s →
    WritesTo (.moveSrEa ea) s .w l (steppedEa ea) (s.sr.word.setWidth 64) s.sr (2 + 2 * ea.extWords .w)) ∧
  ∀ f : StatusReg,
    f.word.extractLsb' 8 8 = f.sys ∧ f.word.extractLsb' 5 3 = 0#3 ∧ f.word.getLsbD 4 = f.x ∧ f.word.getLsbD 3 = f.n ∧
      f.word.getLsbD 2 = f.z ∧ f.word.getLsbD 1 = f.v ∧ f.word.getLsbD 0 = f.c

/-- ORI #$0800,SR sets SR bit 11 and ANDI #$F7FF,SR clears it, in any mode, and nothing else changes; another
immediate raises PrivilegeViolation in user mode and is refused in supervisor mode (rules R183, R184; decision
D10 of the spec). -/
def Obligations.ApolloBitIsSetAndClearedInAnyMode : Prop :=
  ∀ (imm : Word) (s : State),
    (∃ t, exec (.oriSr 0x0800) s = .next t ∧ t.sr.word = s.sr.word ||| 0x0800 ∧
      t.pc = s.pc + 4 ∧ t.draws = s.draws ∧ Frame [] [] s t) ∧
    (∃ t, exec (.andiSr 0xF7FF) s = .next t ∧ t.sr.word = s.sr.word &&& 0xF7FF ∧
      t.pc = s.pc + 4 ∧ t.draws = s.draws ∧ Frame [] [] s t) ∧
    (s.sr.word.getLsbD 13 = false →
      (imm ≠ 0x0800 → exec (.oriSr imm) s = .fault (.raised .privilegeViolation s.pc s)) ∧
      (imm ≠ 0xF7FF → exec (.andiSr imm) s = .fault (.raised .privilegeViolation s.pc s))) ∧
    (s.sr.word.getLsbD 13 = true →
      (imm ≠ 0x0800 → exec (.oriSr imm) s = .refused .legacySrImmediate) ∧
      (imm ≠ 0xF7FF → exec (.andiSr imm) s = .refused .legacySrImmediate))

/-- The five MOVE16 forms copy 16 bytes, unaligned or not, and step the (An)+ registers by 16; the same register
twice and ranges that overlap without being equal are refused (rules R66, R186, R187, R188; the refusals are
decision D33 of the spec; that a copy onto the source itself runs, and that overlap is reckoned modulo `2^32`, is log
entry 20). -/
def Obligations.Move16CopiesSixteenBytes : Prop :=
  ∀ (ax ay : Reg3) (l : Long) (s : State),
    let copies (i : Instr) (src dst : Addr) (stepped : List Reg3) (n : Nat) : Prop :=
      (src = dst ∨ (16 ≤ (dst - src).toNat ∧ 16 ≤ (src - dst).toNat) →
        s.mem.wf = true → Readable (span src 16) s → Writable (span dst 16) s →
        ∃ t, exec i s = .next t ∧
          (∀ j, j < 16 → t.byteAt (dst + BitVec.ofNat 32 j) = s.byteAt (src + BitVec.ofNat 32 j)) ∧
          (∀ r ∈ stepped, t.long (.a r) = s.long (.a r) + 16) ∧
          Frame (stepped.map .a) (span dst 16) s t ∧ t.sr = s.sr ∧ t.pc = s.pc + BitVec.ofNat 32 n) ∧
      (src ≠ dst → (dst - src).toNat < 16 ∨ (src - dst).toNat < 16 → exec i s = .refused .move16Overlap)
    (ax ≠ ay → copies (.move16PiPi ax ay) (s.long (.a ax)) (s.long (.a ay)) [ax, ay] 4) ∧
    exec (.move16PiPi ax ax) s = .refused .move16Overlap ∧
    copies (.move16PiAbs ax l) (s.long (.a ax)) l [ax] 6 ∧
    copies (.move16AbsPi l ax) l (s.long (.a ax)) [ax] 6 ∧
    copies (.move16AnAbs ax l) (s.long (.a ax)) l [] 6 ∧
    copies (.move16AbsAn l ax) l (s.long (.a ax)) [] 6

/-- MOVEC Rc,Rn in any mode: PCR reads as its id, revision and writable bits; a counter as a value of which
nothing is said, which its field then holds (the model's choice, log entry 9); another number is refused; at
reset PCR reads `$04400101` (rules R36, R37, R38, R192, R193, R380). -/
def Obligations.MovecReadsPcrAndCounters : Prop :=
  (∀ (rn : Reg4) (s : State),
    ∃ v : Long, WritesLong (.movecRcRn rn 0x808) s ⟨.imm 0, s⟩ [] (rn4 rn) v s.sr 4 ∧
      v.extractLsb' 16 16 = 0x0440 ∧ v.extractLsb' 8 8 = s.cfg.pcrRevision ∧ v.getLsbD 7 = s.pcr.edebug ∧
      v.getLsbD 6 = s.pcr.amiga ∧ v.extractLsb' 2 4 = 0#4 ∧ v.getLsbD 1 = s.pcr.dfp ∧ v.getLsbD 0 = s.pcr.ess) ∧
  WritesLong (.movecRcRn 0 0x808) State.reset ⟨.imm 0, State.reset⟩ [] (.d 0) 0x04400101 State.reset.sr 4 ∧
  (∀ e ∈ counterTable, ∀ (rn : Reg4) (s : State),
    ∃ t, exec (.movecRcRn rn e.1) s = .next t ∧ e.2 t.counters = t.long (rn4 rn) ∧
      (∀ c ∈ counterTable, c.1 ≠ e.1 → c.2 t.counters = c.2 s.counters) ∧
      Frame [rn4 rn] [] s (t.setCounters s.counters) ∧ t.sr = s.sr ∧ t.pc = s.pc + 4) ∧
  ∀ (rn : Reg4) (creg : BitVec 12) (s : State), creg ≠ 0x808 → (∀ e ∈ counterTable, creg ≠ e.1) →
    exec (.movecRcRn rn creg) s = .refused .controlRegister

/-- MOVEC Rn,Rc: in user mode it raises PrivilegeViolation whatever it names; in supervisor mode PCR takes bits 7,
6, 1 and 0 and nothing else changes; bits 5-2 not zero, a counter and an unlisted number are refused (rules R37,
R192, R193, R364; the refusals are decisions D40 and D47 of the spec). -/
def Obligations.MovecWritesPcrInSupervisorModeOnly : Prop :=
  ∀ (rn : Reg4) (creg : BitVec 12) (s : State),
    let v := s.long (rn4 rn)
    (s.sr.word.getLsbD 13 = false → exec (.movecRnRc rn creg) s = .fault (.raised .privilegeViolation s.pc s)) ∧
    (s.sr.word.getLsbD 13 = true →
      (v.extractLsb' 2 4 = 0#4 → exec (.movecRnRc rn 0x808) s =
        .next ((s.setPcr ⟨v.getLsbD 7, v.getLsbD 6, v.getLsbD 1, v.getLsbD 0⟩).setPc (s.pc + 4))) ∧
      (v.extractLsb' 2 4 ≠ 0#4 → exec (.movecRnRc rn 0x808) s = .refused .pcrReserved) ∧
      (∀ e ∈ counterTable, exec (.movecRnRc rn e.1) s = .refused .counterWrite) ∧
      (creg ≠ 0x808 → (∀ e ∈ counterTable, creg ≠ e.1) →
        exec (.movecRnRc rn creg) s = .refused .controlRegister))

/-- MOVE2 loads two registers from adjacent data, without extension, or stores two registers side by side; flags
from the first datum, X unchanged (rule R195; the refused forms are decision D30 of the spec). -/
def Obligations.Move2MovesTwoRegisters : Prop :=
  ∀ (sz : Size) (b c : Reg4) (ea : Ea) (s : State) (p : Addr),
    let n := sz.bytes
    let q : Addr := p + BitVec.ofNat 32 n
    let flags (v : QWord) : StatusReg :=
      { s.sr with n := v.getLsbD (8 * n - 1), z := v == 0, v := false, c := false }
    (locate sz (s.pc + 4) 0 ea s).loc = .mem p →
    ((Instr.move2 sz false b c ea).wellFormed s.cfg = true → Readable (span p n) s → Readable (span q n) s →
      ∃ t, exec (.move2 sz false b c ea) s = .next t ∧
        lowBytes sz (t.quad (rn4 b)) = s.sizedAt sz p ∧ lowBytes sz (t.quad (rn4 c)) = s.sizedAt sz q ∧
        (t.long (rn4 b)) >>> (8 * n) = (s.long (rn4 b)) >>> (8 * n) ∧
        (t.long (rn4 c)) >>> (8 * n) = (s.long (rn4 c)) >>> (8 * n) ∧ t.sr = flags (s.sizedAt sz p) ∧
        t.pc = s.pc + BitVec.ofNat 32 (4 + 2 * ea.extWords sz) ∧ Frame [rn4 b, rn4 c] [] s t) ∧
    ((Instr.move2 sz true b c ea).wellFormed s.cfg = true → s.mem.wf = true →
      Writable (span p n) s → Writable (span q n) s →
      ∃ t, exec (.move2 sz true b c ea) s = .next t ∧
        t.sizedAt sz p = lowBytes sz (s.quad (rn4 b)) ∧ t.sizedAt sz q = lowBytes sz (s.quad (rn4 c)) ∧
        t.sr = flags (lowBytes sz (s.quad (rn4 b))) ∧
        t.pc = s.pc + BitVec.ofNat 32 (4 + 2 * ea.extWords sz) ∧ Frame [] (span p n ++ span q n) s t)

/-- The old MOVE2, under `MOVE2_OLD`: registers `b` and `b + 1`, a loaded datum zero-extended to a long (rule R196;
decision D29 of the spec). -/
def Obligations.OldMove2ZeroExtendsAnEvenPair : Prop :=
  ∀ (sz : Size) (b : Reg4) (ea : Ea) (s : State) (p : Addr),
    let n := sz.bytes
    let q : Addr := p + BitVec.ofNat 32 n
    let flags (v : QWord) : StatusReg :=
      { s.sr with n := v.getLsbD (8 * n - 1), z := v == 0, v := false, c := false }
    (locate sz (s.pc + 4) 0 ea s).loc = .mem p →
    ((Instr.move2Old sz false b ea).wellFormed s.cfg = true → Readable (span p n) s → Readable (span q n) s →
      ∃ t, exec (.move2Old sz false b ea) s = .next t ∧
        (t.long (rn4 b)).setWidth 64 = s.sizedAt sz p ∧ (t.long (rn4 (b + 1))).setWidth 64 = s.sizedAt sz q ∧
        t.sr = flags (s.sizedAt sz p) ∧ t.pc = s.pc + BitVec.ofNat 32 (4 + 2 * ea.extWords sz) ∧
        Frame [rn4 b, rn4 (b + 1)] [] s t) ∧
    ((Instr.move2Old sz true b ea).wellFormed s.cfg = true → s.mem.wf = true →
      Writable (span p n) s → Writable (span q n) s →
      ∃ t, exec (.move2Old sz true b ea) s = .next t ∧
        t.sizedAt sz p = lowBytes sz (s.quad (rn4 b)) ∧ t.sizedAt sz q = lowBytes sz (s.quad (rn4 (b + 1))) ∧
        t.sr = flags (lowBytes sz (s.quad (rn4 b))) ∧
        t.pc = s.pc + BitVec.ofNat 32 (4 + 2 * ea.extWords sz) ∧ Frame [] (span p n ++ span q n) s t)

/-- MOVEH moves a word between memory and bits 31-16 of a register, bits 15-0 unchanged; N and Z from the word
(rule R198). -/
def Obligations.MovehMovesTheUpperWord : Prop :=
  ∀ (b : Reg4) (ea : Ea) (s : State) (p : Addr),
    let flags (v : Word) : StatusReg := { s.sr with n := v.msb, z := v == 0, v := false, c := false }
    (locate .w (s.pc + 4) 0 ea s).loc = .mem p →
    ((Instr.moveh false b ea).wellFormed s.cfg = true → Readable (span p 2) s →
      WritesLong (.moveh false b ea) s ⟨.imm 0, s⟩ [] (rn4 b) (s.wordAt p ++ (s.long (rn4 b)).extractLsb' 0 16)
        (flags (s.wordAt p)) (4 + 2 * ea.extWords .w)) ∧
    ((Instr.moveh true b ea).wellFormed s.cfg = true → s.mem.wf = true → Writable (span p 2) s →
      ∃ t, exec (.moveh true b ea) s = .next t ∧ t.wordAt p = (s.long (rn4 b)).extractLsb' 16 16 ∧
        t.sr = flags ((s.long (rn4 b)).extractLsb' 16 16) ∧
        t.pc = s.pc + BitVec.ofNat 32 (4 + 2 * ea.extWords .w) ∧ Frame [] (span p 2) s t)

/-- MOVEX moves with the bytes of the word or long reversed; N and Z from the result, X unchanged (rule R199; the
reversal is decision D37 of the spec, and that the address is formed before the register is read is log
entry 18). -/
def Obligations.MovexReversesTheBytes : Prop :=
  ∀ (sz : Size) (b : Reg4) (ea : Ea) (s : State),
    let l := locate sz (s.pc + 4) 0 ea s
    let rev (v : QWord) : QWord :=
      if sz = .w then (v.extractLsb' 0 8 ++ v.extractLsb' 8 8).setWidth 64
      else (v.extractLsb' 0 8 ++ v.extractLsb' 8 8 ++ v.extractLsb' 16 8 ++ v.extractLsb' 24 8).setWidth 64
    let flags (r : QWord) : StatusReg :=
      { s.sr with n := r.getLsbD (8 * sz.bytes - 1), z := r == 0, v := false, c := false }
    ((Instr.movex sz false b ea).wellFormed s.cfg = true → Readable (l.loc.addrs sz) s →
      ∃ t, exec (.movex sz false b ea) s = .next t ∧ lowBytes sz (t.quad (rn4 b)) = rev (l.loc.value sz s) ∧
        (t.long (rn4 b)) >>> (8 * sz.bytes) = (l.st.long (rn4 b)) >>> (8 * sz.bytes) ∧
        UpperAsConfigured s t (rn4 b) ∧ t.sr = flags (rev (l.loc.value sz s)) ∧
        t.pc = s.pc + BitVec.ofNat 32 (4 + 2 * ea.extWords sz) ∧
        Frame (rn4 b :: steppedEa ea) [] s t ∧ ∀ r ∈ steppedEa ea, r ≠ rn4 b → t.long r = l.st.long r) ∧
    ((Instr.movex sz true b ea).wellFormed s.cfg = true → s.mem.wf = true → Writable (l.loc.addrs sz) s →
      WritesTo (.movex sz true b ea) s sz l (steppedEa ea) (rev (l.st.quad (rn4 b))) (flags (rev (l.st.quad (rn4 b))))
        (4 + 2 * ea.extWords sz))

/-- MOVS sign-extends and MOVZ zero-extends a byte or word operand to a long in Dn, with the apollo-bit set; N and
Z from the long; with it clear they raise LineA (rules R202, R203; the flags are decision D14 of the spec). -/
def Obligations.MovsAndMovzExtendToLong : Prop :=
  ∀ (sz : Size) (ea : Ea) (dn : Reg3) (s : State),
    let l := locate sz (s.pc + 2) 0 ea s
    let v := l.loc.value sz s
    let flags (r : Long) : StatusReg := { s.sr with n := r.msb, z := r == 0, v := false, c := false }
    let signed : Long := if sz = .b then (v.extractLsb' 0 8).signExtend 32 else (v.extractLsb' 0 16).signExtend 32
    ((Instr.movs sz ea dn).wellFormed s.cfg = true → Readable (l.loc.addrs sz) s → s.sr.word.getLsbD 11 = true →
      WritesLong (.movs sz ea dn) s l (steppedEa ea) (.d (0#2 ++ dn)) signed (flags signed) (2 + 2 * ea.extWords sz)) ∧
    ((Instr.movz sz ea dn).wellFormed s.cfg = true → Readable (l.loc.addrs sz) s → s.sr.word.getLsbD 11 = true →
      WritesLong (.movz sz ea dn) s l (steppedEa ea) (.d (0#2 ++ dn)) (v.setWidth 32) (flags (v.setWidth 32))
        (2 + 2 * ea.extWords sz)) ∧
    (s.sr.word.getLsbD 11 = false →
      exec (.movs sz ea dn) s = .fault (.raised .lineA s.pc s) ∧
      exec (.movz sz ea dn) s = .fault (.raised .lineA s.pc s))

/-- MOVZ2 zero-extends two adjacent data into two registers; Z from the first datum, V = C = 0, X unchanged, N = 0
when its top bit is 0; when it is 1 nothing is said of N (rule R205; decision D50 of the spec). -/
def Obligations.Movz2ZeroExtendsTwoData : Prop :=
  ∀ (sz : Size) (b c : Reg4) (ea : Ea) (s : State) (p : Addr),
    let n := sz.bytes
    let q : Addr := p + BitVec.ofNat 32 n
    (locate sz (s.pc + 4) 0 ea s).loc = .mem p →
    (Instr.movz2 sz b c ea).wellFormed s.cfg = true → Readable (span p n) s → Readable (span q n) s →
    ∃ t, exec (.movz2 sz b c ea) s = .next t ∧
      (t.long (rn4 b)).setWidth 64 = s.sizedAt sz p ∧ (t.long (rn4 c)).setWidth 64 = s.sizedAt sz q ∧
      (∃ bit, t.sr = { s.sr with n := bit, z := s.sizedAt sz p == 0, v := false, c := false } ∧
        ((s.sizedAt sz p).getLsbD (8 * n - 1) = false → bit = false)) ∧
      t.pc = s.pc + BitVec.ofNat 32 (4 + 2 * ea.extWords sz) ∧ Frame [rn4 b, rn4 c] [] s t

/-- TOUCH changes nothing but `pc`, and accesses no memory, whatever its address (rules R82, R212). -/
def Obligations.TouchOnlyMovesPc : Prop :=
  ∀ (an : Reg3) (e : IndexExt) (s : State),
    exec (.touchIndex an e) s = .next (s.setPc (s.pc + BitVec.ofNat 32 (2 + 2 * e.words))) ∧
    exec (.touchAn an) s = .next (s.setPc (s.pc + 2))

/-- A BANK prefix with `AA = BB = 00` changes nothing: the bundle completes as the inner instruction two bytes
further does (rules R139, R140). -/
def Obligations.BankWithZeroFieldsIsTheInnerInstruction : Prop :=
  ∀ (p : BankPrefix) (inner : Instr) (s t : State),
    (Instr.bank p inner).wellFormed s.cfg = true → p.aa = 0 → p.bb = 0 →
    (exec (.bank p inner) s = .next t ↔ exec inner (s.setPc (s.pc + 2)) = .next t)

/-- A BANK prefix makes a register operand `R5[AA:rrr]` or `R5[BB:rrr]`: EXTUB, EXTUW, CLR, MOVIW.L, MOVE.L Bn,Dn,
MOVEA.L Dn,Bn, and PERM, where a nonzero field names an E register whatever the operand's top bit (rules R25, R136,
R140, R208). A bundle that is not admitted is refused (decision D11 of the spec; that it is refused in every state, even
around a Line-A word with the apollo-bit clear, is log entry 17). -/
def Obligations.BankExtendsRegisterOperands : Prop :=
  ∀ (p : BankPrefix) (s : State) (dn bn : Reg3),
    let d := RegName.d (p.bb ++ dn)
    let low8 : Long := ((s.long d).extractLsb' 0 8).setWidth 32
    let low16 : Long := ((s.long d).extractLsb' 0 16).setWidth 32
    let flags (v : Long) : StatusReg := { s.sr with n := v.msb, z := v == 0, v := false, c := false }
    let gives (i : Instr) (r : RegName) (v : Long) (sr : StatusReg) (n : Nat) : Prop :=
      (Instr.bank p i).wellFormed s.cfg = true → WritesLong (.bank p i) s ⟨.imm 0, s⟩ [] r v sr n
    (∀ i, (Instr.bank p i).wellFormed s.cfg = false → ∃ x, exec (.bank p i) s = .refused (.form x)) ∧
    gives (.extub dn) d low8 { s.sr with n := false, z := low8 == 0, v := false, c := false } 4 ∧
    gives (.extuw dn) d low16 { s.sr with n := false, z := low16 == 0, v := false, c := false } 4 ∧
    gives (.clrB (.dn dn)) d ((s.long d).extractLsb' 8 24 ++ 0#8) (flags 0) 4 ∧
    gives (.clrW (.dn dn)) d ((s.long d).extractLsb' 16 16 ++ 0#16) (flags 0) 4 ∧
    gives (.clrL (.dn dn)) d 0 (flags 0) 4 ∧
    (∀ imm : Word, s.sr.word.getLsbD 11 = true →
      gives (.moviw imm (.dn dn)) d (imm.signExtend 32) (flags (imm.signExtend 32)) 6) ∧
    gives (.moveBnEa bn (.dn dn)) d (s.long (.b bn)) (flags (s.long (.b bn))) 4 ∧
    gives (.moveaEaBn (.dn dn) bn) (.b bn) (s.long (.d (p.aa ++ dn))) s.sr 4 ∧
    ∀ (a b : Reg4) (p0 p1 p2 p3 : BitVec 3),
      let ra := if p.aa = 0 then rn4 a else .d (p.aa ++ a.extractLsb' 0 3)
      let rb := if p.bb = 0 then rn4 b else .d (p.bb ++ b.extractLsb' 0 3)
      let pick (k : BitVec 3) : Byte :=
        if k.toNat < 4 then (s.long ra).extractLsb' (24 - 8 * k.toNat) 8
        else (s.long rb).extractLsb' (56 - 8 * k.toNat) 8
      gives (.perm a b p0 p1 p2 p3) rb (pick p0 ++ pick p1 ++ pick p2 ++ pick p3) s.sr 6

/-! ### AMMX: 42_ammx_1.md and 43_ammx_2.md -/

/-- PADD and PSUB lane by lane: wrapping, or clipped to 0 and the lane's maximum; PSUB is `b - a`; their words decode
to them (rules R244 to R247, R289 to R292; the opcode bytes are decision D18 of the spec). -/
def Obligations.PaddAndPsubWorkLaneByLane : Prop :=
  ∀ (vea : Vea) (b d : Reg5),
    AmmxTo (.paddb vea b d) vea b d (EachByte fun x y r => r.toNat = (x.toNat + y.toNat) % 256) ∧
    AmmxTo (.paddw vea b d) vea b d (EachWord fun x y r => r.toNat = (x.toNat + y.toNat) % 65536) ∧
    AmmxTo (.paddusb vea b d) vea b d (EachByte fun x y r => r.toNat = min (x.toNat + y.toNat) 255) ∧
    AmmxTo (.paddusw vea b d) vea b d (EachWord fun x y r => r.toNat = min (x.toNat + y.toNat) 65535) ∧
    AmmxTo (.psubb vea b d) vea b d (EachByte fun x y r => r.toNat = (y.toNat + (256 - x.toNat)) % 256) ∧
    AmmxTo (.psubw vea b d) vea b d (EachWord fun x y r => r.toNat = (y.toNat + (65536 - x.toNat)) % 65536) ∧
    AmmxTo (.psubusb vea b d) vea b d (EachByte fun x y r => r.toNat = y.toNat - x.toNat) ∧
    AmmxTo (.psubusw vea b d) vea b d (EachWord fun x y r => r.toNat = y.toNat - x.toNat) ∧
    AmmxWords (.paddb vea b d) 0x10 vea b d ∧
    AmmxWords (.paddw vea b d) 0x11 vea b d ∧
    AmmxWords (.paddusb vea b d) 0x14 vea b d ∧
    AmmxWords (.paddusw vea b d) 0x15 vea b d ∧
    AmmxWords (.psubb vea b d) 0x12 vea b d ∧
    AmmxWords (.psubw vea b d) 0x13 vea b d ∧
    AmmxWords (.psubusb vea b d) 0x16 vea b d ∧
    AmmxWords (.psubusw vea b d) 0x17 vea b d

/-- PCMP compares `b` with `a` in each lane and writes all ones or zero; their words decode to them (rules R255
to R262; the value of true is decision D25 of the spec). -/
def Obligations.PcmpWritesAMaskInEachLane : Prop :=
  ∀ (vea : Vea) (b d : Reg5),
    AmmxTo (.pcmpeqb vea b d) vea b d (EachByte fun x y r => r = if y = x then 0xFF else 0) ∧
    AmmxTo (.pcmphib vea b d) vea b d (EachByte fun x y r => r = if y.toNat > x.toNat then 0xFF else 0) ∧
    AmmxTo (.pcmpgeb vea b d) vea b d (EachByte fun x y r => r = if y.toInt ≥ x.toInt then 0xFF else 0) ∧
    AmmxTo (.pcmpgtb vea b d) vea b d (EachByte fun x y r => r = if y.toInt > x.toInt then 0xFF else 0) ∧
    AmmxTo (.pcmpeqw vea b d) vea b d (EachWord fun x y r => r = if y = x then 0xFFFF else 0) ∧
    AmmxTo (.pcmphiw vea b d) vea b d (EachWord fun x y r => r = if y.toNat > x.toNat then 0xFFFF else 0) ∧
    AmmxTo (.pcmpgew vea b d) vea b d (EachWord fun x y r => r = if y.toInt ≥ x.toInt then 0xFFFF else 0) ∧
    AmmxTo (.pcmpgtw vea b d) vea b d (EachWord fun x y r => r = if y.toInt > x.toInt then 0xFFFF else 0) ∧
    AmmxWords (.pcmpeqb vea b d) 0x20 vea b d ∧
    AmmxWords (.pcmpeqw vea b d) 0x21 vea b d ∧
    AmmxWords (.pcmphib vea b d) 0x22 vea b d ∧
    AmmxWords (.pcmphiw vea b d) 0x23 vea b d ∧
    AmmxWords (.pcmpgeb vea b d) 0x2C vea b d ∧
    AmmxWords (.pcmpgew vea b d) 0x2D vea b d ∧
    AmmxWords (.pcmpgtb vea b d) 0x2E vea b d ∧
    AmmxWords (.pcmpgtw vea b d) 0x2F vea b d

/-- PMAX and PMIN write the larger and smaller lane, signed and unsigned, and their words decode to them (rules R270 to
R278). -/
def Obligations.PmaxAndPminPickTheLane : Prop :=
  ∀ (vea : Vea) (b d : Reg5),
    AmmxTo (.pmaxsb vea b d) vea b d (EachByte fun x y r => r.toInt = max x.toInt y.toInt) ∧
    AmmxTo (.pmaxub vea b d) vea b d (EachByte fun x y r => r.toNat = max x.toNat y.toNat) ∧
    AmmxTo (.pmaxsw vea b d) vea b d (EachWord fun x y r => r.toInt = max x.toInt y.toInt) ∧
    AmmxTo (.pmaxuw vea b d) vea b d (EachWord fun x y r => r.toNat = max x.toNat y.toNat) ∧
    AmmxTo (.pminsb vea b d) vea b d (EachByte fun x y r => r.toInt = min x.toInt y.toInt) ∧
    AmmxTo (.pminub vea b d) vea b d (EachByte fun x y r => r.toNat = min x.toNat y.toNat) ∧
    AmmxTo (.pminsw vea b d) vea b d (EachWord fun x y r => r.toInt = min x.toInt y.toInt) ∧
    AmmxTo (.pminuw vea b d) vea b d (EachWord fun x y r => r.toNat = min x.toNat y.toNat) ∧
    AmmxWords (.pmaxsb vea b d) 0x34 vea b d ∧
    AmmxWords (.pmaxub vea b d) 0x36 vea b d ∧
    AmmxWords (.pmaxsw vea b d) 0x35 vea b d ∧
    AmmxWords (.pmaxuw vea b d) 0x37 vea b d ∧
    AmmxWords (.pminsb vea b d) 0x30 vea b d ∧
    AmmxWords (.pminub vea b d) 0x32 vea b d ∧
    AmmxWords (.pminsw vea b d) 0x31 vea b d ∧
    AmmxWords (.pminuw vea b d) 0x33 vea b d

/-- PMUL88, PMULH and PMULL keep bits 23-8, 31-16 and 15-0 of the signed product of each word lane, and their words
and PMULA's, the fourth of the family, decode to them (rules R280 to R283). -/
def Obligations.PmulKeepsItsPartOfTheProduct : Prop :=
  ∀ (vea : Vea) (b d : Reg5),
    AmmxTo (.pmul88 vea b d) vea b d
      (EachWord fun x y r => (r.toNat : Int) = x.toInt * y.toInt / 2 ^ 8 % 2 ^ 16) ∧
    AmmxTo (.pmulh vea b d) vea b d
      (EachWord fun x y r => (r.toNat : Int) = x.toInt * y.toInt / 2 ^ 16 % 2 ^ 16) ∧
    AmmxTo (.pmull vea b d) vea b d (EachWord fun x y r => (r.toNat : Int) = x.toInt * y.toInt % 2 ^ 16) ∧
    AmmxWords (.pmul88 vea b d) 0x18 vea b d ∧
    AmmxWords (.pmulh vea b d) 0x1A vea b d ∧
    AmmxWords (.pmull vea b d) 0x1B vea b d ∧
    AmmxWords (.pmula vea b d) 0x19 vea b d

/-- PMULA: in each of the two pixels the top byte is 0 and each colour is b's when a's alfa is 255, else
`alfa * b / 256 + a` clipped to 255; PAVGB: the rounded-up average of each byte lane; their words decode to
them (rules R252, R285; the scaling of PMULA is decision D26 of the spec). -/
def Obligations.PmulaBlendsAndPavgbAverages : Prop :=
  ∀ (vea : Vea) (b d : Reg5),
    AmmxTo (.pavgb vea b d) vea b d (EachByte fun x y r => r.toNat = (x.toNat + y.toNat + 1) / 2) ∧
    AmmxWords (.pavgb vea b d) 0x0C vea b d ∧
    AmmxWords (.pmula vea b d) 0x19 vea b d ∧
    AmmxTo (.pmula vea b d) vea b d fun x y r =>
      ∀ pixel, pixel < 2 → laneB r (4 * pixel) = 0 ∧
        ∀ colour, 1 ≤ colour → colour < 4 →
          let al := (laneB x (4 * pixel)).toNat
          let p := (laneB x (4 * pixel + colour)).toNat
          let q := (laneB y (4 * pixel + colour)).toNat
          (laneB r (4 * pixel + colour)).toNat = if al = 255 then q else min (al * q / 256 + p) 255

/-- PAND, PANDN, POR, PEOR and BSEL bit by bit; BSEL takes the `<vea>` bit where the mask is 1 and keeps d's where it
is 0; their words decode to them (rules R229, R249, R250, R265, R287). -/
def Obligations.LogicalAmmxWorksBitByBit : Prop :=
  ∀ (vea : Vea) (b d : Reg5),
    let bits (f : Bool → Bool → Bool) (x y r : QWord) : Prop :=
      ∀ i, i < 64 → r.getLsbD i = f (x.getLsbD i) (y.getLsbD i)
    AmmxTo (.pand vea b d) vea b d (bits fun x y => x && y) ∧
    AmmxTo (.pandn vea b d) vea b d (bits fun x y => !x && y) ∧
    AmmxTo (.por vea b d) vea b d (bits fun x y => x || y) ∧
    AmmxTo (.peor vea b d) vea b d (bits fun x y => x != y) ∧
    AmmxWords (.pand vea b d) 0x08 vea b d ∧
    AmmxWords (.pandn vea b d) 0x0B vea b d ∧
    AmmxWords (.por vea b d) 0x09 vea b d ∧
    AmmxWords (.peor vea b d) 0x0A vea b d ∧
    AmmxWords (.bsel vea b d) 0x29 vea b d ∧
    ∀ s : State, Readable ((veaAt vea s).loc.addrs .q) s →
      let a := (veaAt vea s).loc.value .q s
      let m := s.quad (.d b)
      let old := s.quad (.d d)
      ∃ t, exec (.bsel vea b d) s = .next t ∧
        (∀ i, i < 64 → (t.quad (.d d)).getLsbD i = if m.getLsbD i then a.getLsbD i else old.getLsbD i) ∧
        t.sr = s.sr ∧ t.pc = s.pc + BitVec.ofNat 32 (4 + 2 * vea.extWords) ∧
        Frame (.d d :: steppedVea vea) [] s t ∧ ∀ r ∈ steppedVea vea, t.long r = (veaAt vea s).st.long r

/-- LSLQ and LSRQ shift `b` by the `<vea>` operand modulo 64, C2P transposes the 8 by 8 bits, MINTERM looks each
bit up in the table of its fourth source, VPERM picks bytes of two registers; their words decode to them,
VPERM's refused when bits 7-4 of word 2 are not 0 (rules R231, R236, R237, R239, R310). -/
def Obligations.ShiftsTransposesAndLookupsPlaceEachBit : Prop :=
  (∀ (vea : Vea) (b d : Reg5),
    AmmxTo (.lslq vea b d) vea b d
      (fun x y r => r.toNat = y.toNat * 2 ^ (x.toNat % 64) % 2 ^ 64) ∧
    AmmxTo (.lsrq vea b d) vea b d (fun x y r => r.toNat = y.toNat / 2 ^ (x.toNat % 64)) ∧
    AmmxTo (.c2p vea d) vea 0 d
      (fun x _ r => ∀ n j, n < 8 → j < 8 → r.getLsbD (8 * n + j) = x.getLsbD (8 * j + n)) ∧
    AmmxWords (.lslq vea b d) 0x38 vea b d ∧ AmmxWords (.lsrq vea b d) 0x39 vea b d ∧
    AmmxWords (.c2p vea d) 0x28 vea 0 d) ∧
  (∀ (grp : BitVec 3) (d : Reg5) (s : State),
    let src (k : BitVec 2) : QWord := s.quad (.d (grp ++ k))
    ∃ t, exec (.minterm grp d) s = .next t ∧ t.sr = s.sr ∧ t.pc = s.pc + 4 ∧ Frame [.d d] [] s t ∧
      ∀ i, i < 64 → (t.quad (.d d)).getLsbD i =
        (src 3).getLsbD (4 * ((src 0).getLsbD i).toNat + 2 * ((src 1).getLsbD i).toNat + ((src 2).getLsbD i).toNat)) ∧
  (∀ (cfg : Config) (grp : BitVec 3) (a b d : Reg5) (z : BitVec 4) (hi lo : Word) (ws : List Word),
    decode cfg ((0x7F#7 ++ grp.extractLsb' 2 1 ++ 0#1 ++ d.extractLsb' 4 1 ++ 0#2 ++ grp.extractLsb' 0 2 ++ 0#2) ::
      (0#4 ++ d.extractLsb' 0 4 ++ 0x2A#8) :: ws) = .ok (.minterm grp d) ws ∧
    decode cfg ((0x7F#7 ++ a.extractLsb' 4 1 ++ b.extractLsb' 4 1 ++ d.extractLsb' 4 1 ++ 0x3F#6) ::
      (b.extractLsb' 0 4 ++ d.extractLsb' 0 4 ++ z ++ a.extractLsb' 0 4) :: hi :: lo :: ws) =
        if z = 0 then .ok (.vperm a b d (hi ++ lo)) ws else .reject .reservedField) ∧
  ∀ (a b d : Reg5) (sel : Long) (s : State),
    ∃ t, exec (.vperm a b d sel) s = .next t ∧ t.sr = s.sr ∧ t.pc = s.pc + 8 ∧ Frame [.d d] [] s t ∧
      ∀ i, i < 8 →
        let pos : BitVec 4 := sel.extractLsb' (28 - 4 * i) 4
        laneB (t.quad (.d d)) i =
          laneB (s.quad (.d (if pos.getLsbD 3 then b else a))) (pos.extractLsb' 0 3).toNat

/-- LOAD loads the operand into `d`; LOADI into the register its index names, modulo 64, and an index of 24 to 39 is
refused; their words, which the field `b` tells apart, decode to them (rules R27, R233, R234; the refusal is decision
D28 of the spec). -/
def Obligations.LoadAndLoadiLoadTheOperand : Prop :=
  ∀ (vea : Vea) (d : Reg5),
    AmmxTo (.load vea d) vea 0 d (fun x _ r => r = x) ∧
    AmmxWords (.load vea d) 0x01 vea 0 d ∧ AmmxWords (.loadi vea d) 0x01 vea 1 d ∧
    ∀ s : State,
      let index := (s.quad (.d d)).toNat % 64
      (∀ r, sixBitReg index = some r → Readable ((veaAt vea s).loc.addrs .q) s →
        ∃ t, exec (.loadi vea d) s = .next t ∧ t.quad r = (veaAt vea s).loc.value .q s ∧ t.sr = s.sr ∧
          t.pc = s.pc + BitVec.ofNat 32 (4 + 2 * vea.extWords) ∧ Frame (r :: steppedVea vea) [] s t ∧
          ∀ x ∈ steppedVea vea, x ≠ r → t.long x = (veaAt vea s).st.long x) ∧
      (sixBitReg index = none → exec (.loadi vea d) s = .refused .indirectIndex)

/-- The pair results: BFLY the sums and the differences `b - a`, UNPACK1632 four widened pixels, TRANSHI and TRANSLO
two columns each of the four sources; their words decode to them (rules R226, R227, R303, R304, R306; decisions D20 and
D24 of the spec). -/
def Obligations.PairInstructionsWriteBothRegisters : Prop :=
  (∀ (vea : Vea) (b d : Reg5),
    AmmxToPair (.bflyb vea b d) vea b d (EachByte fun x y r => r.toNat = (y.toNat + x.toNat) % 256)
      (EachByte fun x y r => r.toNat = (y.toNat + (256 - x.toNat)) % 256) ∧
    AmmxToPair (.bflyw vea b d) vea b d (EachWord fun x y r => r.toNat = (y.toNat + x.toNat) % 65536)
      (EachWord fun x y r => r.toNat = (y.toNat + (65536 - x.toNat)) % 65536) ∧
    (let widened (w : Word) (p : Long) : Prop :=
      p.extractLsb' 24 8 = 0#8 ∧ p.extractLsb' 16 8 = w.extractLsb' 11 5 ++ w.extractLsb' 13 3 ∧
        p.extractLsb' 8 8 = w.extractLsb' 5 6 ++ w.extractLsb' 9 2 ∧
        p.extractLsb' 0 8 = w.extractLsb' 0 5 ++ w.extractLsb' 2 3
    AmmxToPair (.unpack1632 vea d) vea 0 d
      (fun x _ r => widened (laneW x 0) (laneL r 0) ∧ widened (laneW x 1) (laneL r 1))
      (fun x _ r => widened (laneW x 2) (laneL r 0) ∧ widened (laneW x 3) (laneL r 1))) ∧
    AmmxWords (.bflyb vea b d) 0x1C vea b d ∧ AmmxWords (.bflyw vea b d) 0x1D vea b d ∧
    AmmxWords (.unpack1632 vea d) 0x1E vea 0 d) ∧
  (∀ (grp : BitVec 3) (d : Reg5),
    GroupWords (.transhi grp d) 0x02 grp d ∧ GroupWords (.translo grp d) 0x03 grp d) ∧
  ∀ (grp : BitVec 3) (d : Reg5) (s : State), d.getLsbD 0 = false →
    let src (k : Nat) : QWord := s.quad (.d (grp ++ BitVec.ofNat 2 k))
    (∃ t, exec (.transhi grp d) s = .next t ∧ t.sr = s.sr ∧ t.pc = s.pc + 4 ∧ Frame [.d d, .d (d + 1)] [] s t ∧
      ∀ k, k < 4 → laneW (t.quad (.d d)) k = laneW (src k) 0 ∧ laneW (t.quad (.d (d + 1))) k = laneW (src k) 1) ∧
    ∃ t, exec (.translo grp d) s = .next t ∧ t.sr = s.sr ∧ t.pc = s.pc + 4 ∧ Frame [.d d, .d (d + 1)] [] s t ∧
      ∀ k, k < 4 → laneW (t.quad (.d d)) k = laneW (src k) 2 ∧ laneW (t.quad (.d (d + 1))) k = laneW (src k) 3

/-- The whole-quad stores: STORE its register, STOREI the register its index names (an index of 24 to 39 is
refused), PACK3216 four truncated pixels, PACKUSWB eight words clipped to bytes; their words decode to them, and a step
refuses an immediate or pc-relative destination (rules R27, R93, R104, R241, R242, R293, R295; decisions D24, D28,
D34 and D44 of the spec; that a STOREI of a register its own `<vea>` steps stores the old value is log entry 18). -/
def Obligations.QuadStoresWriteTheirValue : Prop :=
  ∀ (vea : Vea) (b d : Reg5) (s : State),
    (s.mem.wf = true → (Instr.store b vea).wellFormed s.cfg = true → Writable ((veaAt vea s).loc.addrs .q) s →
      AmmxStores (.store b vea) vea s (s.quad (.d b)) ∧
      (∀ r, sixBitReg ((s.quad (.d b)).toNat % 64) = some r → AmmxStores (.storei b vea) vea s (s.quad r)) ∧
      (∃ v, AmmxStores (.pack3216 b d vea) vea s v ∧
        let packed (p : Long) : Word := p.extractLsb' 19 5 ++ p.extractLsb' 10 6 ++ p.extractLsb' 3 5
        ∀ i, i < 2 → laneW v i = packed (laneL (s.quad (.d b)) i) ∧ laneW v (2 + i) = packed (laneL (s.quad (.d d)) i)) ∧
      ∃ v, AmmxStores (.packuswb b d vea) vea s v ∧
        ∀ i, i < 4 →
          ((laneB v i).toNat : Int) = max 0 (min 255 (laneW (s.quad (.d b)) i).toInt) ∧
          ((laneB v (4 + i)).toNat : Int) = max 0 (min 255 (laneW (s.quad (.d d)) i).toInt)) ∧
    (sixBitReg ((s.quad (.d b)).toNat % 64) = none → exec (.storei b vea) s = .refused .indirectIndex) ∧
    AmmxWords (.store b vea) 0x04 vea b 0 ∧ AmmxWords (.storei b vea) 0x04 vea b 1 ∧
    AmmxWords (.pack3216 b d vea) 0x07 vea b d ∧ AmmxWords (.packuswb b d vea) 0x06 vea b d ∧
    (vea.readOnly = true →
      ∀ i ∈ [Instr.store b vea, .storei b vea, .pack3216 b d vea, .packuswb b d vea], StepRefusesForm i)

/-- The masked stores write exactly the bytes their rule selects, and a register `<vea>` whole: STOREC the first
`count` bytes, STOREILM those whose mask byte ends in 0, STOREM those whose mask bit is 1, STOREM3 by its mode; their
words decode to them (STOREM3's with the byte `STOREM3_OPCODE` gives), and a step refuses an immediate or pc-relative
destination (rules R69, R93, R104, R294, R297, R298, R299; decisions D19, D22, D23, D34 and D44 of the spec; which bytes
`STOREM3_OPCODE` may be is log entry 24). -/
def Obligations.MaskedStoresWriteExactlyTheSelectedBytes : Prop :=
  ∀ (vea : Vea) (b d : Reg5) (s : State),
    let x := s.quad (.d b)
    let m := s.quad (.d d)
    let masked (i : Instr) (p : Nat → Prop) : Prop :=
      i.wellFormed s.cfg = true → s.mem.wf = true →
      (∀ ea, (veaAt vea s).loc = .mem ea → ∀ j, j < 8 → p j →
        s.inData (ea + BitVec.ofNat 32 j) = true ∧ s.inText (ea + BitVec.ofNat 32 j) = false) →
      AmmxMasks i vea s x p
    masked (.storec b d vea) (fun j => (j : Int) < (s.long (.d d)).toInt) ∧
    masked (.storeilm b d vea) (fun j => (laneB m j).getLsbD 0 = false) ∧
    masked (.storem b d vea)
      (fun j => m.getLsbD (match s.cfg.storemOrder with | .msbFirst => 7 - j | .lsbFirst => j) = true) ∧
    AmmxWords (.storec b d vea) 0x24 vea b d ∧ AmmxWords (.storeilm b d vea) 0x05 vea b d ∧
    AmmxWords (.storem b d vea) 0x25 vea b d ∧
    (∀ (cfg : Config) (op : Byte) (mode xx : BitVec 2) (ws : List Word), cfg.storem3 = some op →
      decode cfg ((0x7F#7 ++ Encode.veaA vea ++ b.extractLsb' 4 1 ++ 0#1 ++ Encode.veaMode vea ++ Encode.veaReg vea) ::
        (b.extractLsb' 0 4 ++ xx ++ mode ++ op) :: (Encode.veaWords vea ++ ws)) = .ok (.storem3 b mode xx vea) ws) ∧
    (vea.readOnly = true → ∀ mode xx : BitVec 2,
      ∀ i ∈ [Instr.storec b d vea, .storeilm b d vea, .storem b d vea, .storem3 b mode xx vea], StepRefusesForm i) ∧
    ∀ xx : BitVec 2,
      masked (.storem3 b 0 xx vea) (fun j => (laneL x (j / 4)).msb = true) ∧
      masked (.storem3 b 1 xx vea) (fun j => laneB x j ≠ 0) ∧
      masked (.storem3 b 2 xx vea) (fun j => laneW x (j / 2) ≠ 0xF81F) ∧
      masked (.storem3 b 3 xx vea) (fun j => (laneW x (j / 2)).msb = false)

/-! ### Floating point: 44_float.md -/

/-- Every floating-point instruction, alone or in an admitted BANK bundle, is refused while PCR `dfp` is 1 (rules R139,
R193, R333), and TEX and TEX.b are
refused in every state (rules R300, R301; decision D42 of the spec). -/
def Obligations.DisabledFloatAndTexAreRefused : Prop :=
  (∀ (i : Instr) (s : State), isFloat i = true → s.pcr.dfp = true → exec i s = .refused .fpuDisabled) ∧
  (∀ (p : BankPrefix) (i : Instr) (s : State), isFloat i = true → (Instr.bank p i).wellFormed s.cfg = true →
    s.pcr.dfp = true → exec (.bank p i) s = .refused .fpuDisabled) ∧
  (∀ an au av d s1 s2 ttt s3 s, exec (.tex an au av d s1 s2 ttt s3) s = .refused .texNoSemantics) ∧
  ∀ an au av d dm s, exec (.texB an au av d dm) s = .refused .texNoSemantics

/-- FDBcc.L, `$F248 | rrr`, a word with the predicate in bits 5-0 and an odd displacement word, with `dfp` = 0: a true
condition falls through; else the long counter goes down by one and the loop continues unless it reached -1; predicates
16 to 31 test as 0 to 15 and are refused when nan = 1, predicates from 32 on are refused; with an even displacement word
it is the legacy FDBcc, which is refused, as are words with bits 15-6 of the second not zero (rules R323, R324;
decisions D13 and D53 of the spec). -/
def Obligations.FdbccCountsALongDown : Prop :=
  ∀ (p : BitVec 6) (dn : Reg3) (w : Word) (s : State),
    let r := RegName.d (0#2 ++ dn)
    let f := s.fpcc
    let table : List Bool :=
      [false, f.z, !(f.nan || f.z || f.n), f.z || !(f.nan || f.n), f.n && !(f.nan || f.z), f.z || (f.n && !f.nan),
       !(f.nan || f.z), !f.nan, f.nan, f.nan || f.z, f.nan || !(f.n || f.z), f.nan || f.z || !f.n,
       f.nan || (f.n && !f.z), f.nan || f.z || f.n, !f.z, true]
    (s.pcr.dfp = false → w.getLsbD 0 = true →
      (p.toNat < 16 ∨ (p.toNat < 32 ∧ f.nan = false) →
        (table[p.toNat % 16]? = some true → exec (.fdbccL p dn w) s = .next (s.setPc (s.pc + 6))) ∧
        (table[p.toNat % 16]? = some false →
          ∃ t, exec (.fdbccL p dn w) s = .next t ∧ t.long r = s.long r - 1 ∧ UpperAsConfigured s t r ∧ t.sr = s.sr ∧
            Frame [r] [] s t ∧
            t.pc = if s.long r = 0 then s.pc + 6 else s.pc + 4 + (w &&& 0xFFFE).signExtend 32)) ∧
      (32 ≤ p.toNat ∨ (16 ≤ p.toNat ∧ f.nan = true) → exec (.fdbccL p dn w) s = .refused .fpPredicate)) ∧
    ∀ (cfg : Config) (z : BitVec 10) (ws : List Word),
      decode cfg ((0x1E49#13 ++ dn) :: (z ++ p) :: w :: ws) =
        if z = 0 ∧ w.getLsbD 0 = true then .ok (.fdbccL p dn w) ws else .reject .noRow

/-- FMOVE `<ea>`,FPn and FLOADI convert: an integer operand to the double of that number, a single to the double of
its number, a double bit by bit; the register keeps the fraction bits `FP_FRACTION_BITS` keeps and the condition
bits are the converted value's. Rounding precision default or double (rules R321, R322, R325, R326, R328; decision
D46 of the spec; that the condition bits are of the value before bits are dropped is log entry 22). -/
def Obligations.FmoveLoadsTheConvertedOperand : Prop :=
  ∀ (fmt : FpFmt) (rp : RoundPrec) (fp : Reg3) (s : State), s.pcr.dfp = false → rp ≠ .single →
    (∀ ea, let l := locate fmt.size (s.pc + 4) 0 ea s
      (Instr.fmoveEaFp fmt rp ea fp).wellFormed s.cfg = true → Readable (l.loc.addrs fmt.size) s →
      ∃ (t : State) (x : QWord), exec (.fmoveEaFp fmt rp ea fp) s = .next t ∧
        Converted fmt (l.loc.value fmt.size s) x ∧
        t.fp (0#2 ++ fp) >>> s.cfg.fpFraction.dropped = x >>> s.cfg.fpFraction.dropped ∧ FpccFor t.fpcc x ∧
        t.pc = s.pc + BitVec.ofNat 32 (4 + 2 * ea.extWords fmt.size) ∧ FpFrame (steppedEa ea) [fp] [] s t ∧
        ∀ r ∈ steppedEa ea, t.long r = l.st.long r) ∧
    ∀ (p : BankPrefix) (dn : Reg3), (Instr.floadi p fmt rp dn fp).wellFormed s.cfg = true →
      ∃ (t : State) (x : QWord), exec (.floadi p fmt rp dn fp) s = .next t ∧
        Converted fmt (lowBytes fmt.size (s.quad (.d (p.aa ++ dn)))) x ∧
        t.fp (p.bb ++ fp) >>> s.cfg.fpFraction.dropped = x >>> s.cfg.fpFraction.dropped ∧ FpccFor t.fpcc x ∧
        t.pc = s.pc + 6 ∧
        (p.bb = 0 → FpFrame [] [fp] [] s t) ∧ (p.bb ≠ 0 → FpFrame [.d (p.bb ++ fp)] [] [] s t)

/-- FMOVE `<ea>`,FPn and FLOADI with single rounding precision complete for every operand, and the register holds the
converted operand rounded to a single number in one direction or the other (rules R325, R326, R328; that either
direction is possible is decision D52 of the spec; that a NaN rounds to a NaN is log entry 21, that the condition bits
are
of the value before bits are dropped log entry 22, that infinity is the upper bracket log entry 23). -/
def Obligations.FmoveRoundsToSinglePrecision : Prop :=
  ∀ (fmt : FpFmt) (fp : Reg3) (s : State), s.pcr.dfp = false →
    (∀ ea, let l := locate fmt.size (s.pc + 4) 0 ea s
      (Instr.fmoveEaFp fmt .single ea fp).wellFormed s.cfg = true → Readable (l.loc.addrs fmt.size) s →
      ∃ (t : State) (y x : QWord), exec (.fmoveEaFp fmt .single ea fp) s = .next t ∧
        Converted fmt (l.loc.value fmt.size s) y ∧ RoundedToSingle y x ∧
        t.fp (0#2 ++ fp) >>> s.cfg.fpFraction.dropped = x >>> s.cfg.fpFraction.dropped ∧ FpccFor t.fpcc x ∧
        t.pc = s.pc + BitVec.ofNat 32 (4 + 2 * ea.extWords fmt.size) ∧ FpFrame (steppedEa ea) [fp] [] s t ∧
        ∀ r ∈ steppedEa ea, t.long r = l.st.long r) ∧
    ∀ (p : BankPrefix) (dn : Reg3), (Instr.floadi p fmt .single dn fp).wellFormed s.cfg = true →
      ∃ (t : State) (y x : QWord), exec (.floadi p fmt .single dn fp) s = .next t ∧
        Converted fmt (lowBytes fmt.size (s.quad (.d (p.aa ++ dn)))) y ∧ RoundedToSingle y x ∧
        t.fp (p.bb ++ fp) >>> s.cfg.fpFraction.dropped = x >>> s.cfg.fpFraction.dropped ∧ FpccFor t.fpcc x ∧
        t.pc = s.pc + 6 ∧
        (p.bb = 0 → FpFrame [] [fp] [] s t) ∧ (p.bb ≠ 0 → FpFrame [.d (p.bb ++ fp)] [] [] s t)

/-- FMOVE FPn,`<ea>` and FSTOREI write the register's value in the format where it can be, complete whatever it is,
and set the condition bits from it; a data register keeps the bits above a byte or word (rules R24, R322, R327, R328;
decisions D46 and D52 of the spec). -/
def Obligations.FmoveStoresTheConvertedRegister : Prop :=
  ∀ (fmt : FpFmt) (fp : Reg3) (s : State), s.pcr.dfp = false →
    (∀ ea, let l := locate fmt.size (s.pc + 4) 0 ea s
      let x := s.fp (0#2 ++ fp)
      (Instr.fmoveFpEa fmt fp ea).wellFormed s.cfg = true → s.mem.wf = true → Writable (l.loc.addrs fmt.size) s →
      ∃ t, exec (.fmoveFpEa fmt fp ea) s = .next t ∧ StoredAs fmt x (l.loc.value fmt.size t) ∧ FpccFor t.fpcc x ∧
        t.pc = s.pc + BitVec.ofNat 32 (4 + 2 * ea.extWords fmt.size) ∧
        FpFrame (steppedEa ea ++ l.loc.regs) [] (l.loc.addrs fmt.size) s t ∧
        (∀ r ∈ l.loc.regs, KeepsAbove fmt.size s t r) ∧ ∀ r ∈ steppedEa ea, t.long r = l.st.long r) ∧
    ∀ (p : BankPrefix) (dn : Reg3), let x := s.fp (p.aa ++ fp)
      (Instr.fstorei p fmt fp dn).wellFormed s.cfg = true →
      ∃ t, exec (.fstorei p fmt fp dn) s = .next t ∧ StoredAs fmt x (lowBytes fmt.size (t.quad (.d (p.bb ++ dn)))) ∧
        FpccFor t.fpcc x ∧ t.pc = s.pc + 6 ∧ FpFrame [.d (p.bb ++ dn)] [] [] s t ∧
        KeepsAbove fmt.size s t (.d (p.bb ++ dn))

/-- FMOVERZ and FMOVEURZ, also under a BANK prefix, write the register's number truncated toward zero when it is in
the signed, or unsigned, range of the format; of any other value nothing is said, and the instruction completes
all the same; a data register keeps the bits above a byte or word (rules R24, R322, R328, R329, R330; decision D35 of
the spec). -/
def Obligations.FmoverzTruncatesTowardZero : Prop :=
  ∀ (fmt : FpFmt) (fp : Reg3) (s : State), s.pcr.dfp = false →
    let n := 8 * fmt.size.bytes
    let truncated (x : QWord) (lo hi : Int) (r : QWord) : Prop :=
      let k := towardZero (dblNumber x)
      ¬ dblSpecial x → lo ≤ k → k < hi → (r.toNat : Int) = k % 2 ^ n
    (∀ ea, let l := locate fmt.size (s.pc + 4) 0 ea s
      let x := s.fp (0#2 ++ fp)
      ∀ e ∈ [(Instr.fmoverz fmt fp ea, -(2 ^ (n - 1) : Int), (2 ^ (n - 1) : Int)), (.fmoveurz fmt fp ea, 0, 2 ^ n)],
        e.1.wellFormed s.cfg = true → s.mem.wf = true → Writable (l.loc.addrs fmt.size) s →
        ∃ t, exec e.1 s = .next t ∧ truncated x e.2.1 e.2.2 (l.loc.value fmt.size t) ∧ FpccFor t.fpcc x ∧
          t.pc = s.pc + BitVec.ofNat 32 (4 + 2 * ea.extWords fmt.size) ∧
          FpFrame (steppedEa ea ++ l.loc.regs) [] (l.loc.addrs fmt.size) s t ∧
          (∀ r ∈ l.loc.regs, KeepsAbove fmt.size s t r) ∧ ∀ r ∈ steppedEa ea, t.long r = l.st.long r) ∧
    ∀ (p : BankPrefix) (dn : Reg3), let x := s.fp (p.aa ++ fp)
      ∀ e ∈ [(Instr.bank p (.fmoverz fmt fp (.dn dn)), -(2 ^ (n - 1) : Int), (2 ^ (n - 1) : Int)),
             (.bank p (.fmoveurz fmt fp (.dn dn)), 0, 2 ^ n)],
        e.1.wellFormed s.cfg = true →
        ∃ t, exec e.1 s = .next t ∧ truncated x e.2.1 e.2.2 (lowBytes fmt.size (t.quad (.d (p.bb ++ dn)))) ∧
          FpccFor t.fpcc x ∧ t.pc = s.pc + 6 ∧ FpFrame [.d (p.bb ++ dn)] [] [] s t ∧
          KeepsAbove fmt.size s t (.d (p.bb ++ dn))

end
end

