-- ==== Sys2Proof/Laws/Codec.lean ====
section
/-!
SUPPORT. The parts of an encoding: what each reader of the decoder answers on the words the encoder writes for
the same part (30_encoding.md rules R91 to R104).
-/

namespace Sys2Proof

open Decode Encode

/-! ### Longs and quads -/

theorem withLong_longWords (l : Long) (ws : List Word) (k : Long → List Word → Decoded) :
    withLong (longWords l ++ ws) k = k l ws := by
  have h : l.extractLsb' 16 16 ++ l.extractLsb' 0 16 = l := by
    apply BitVec.eq_of_getLsbD_eq
    intro i hi
    simp only [BitVec.getLsbD_append, BitVec.getLsbD_extractLsb']
    by_cases c : i < 16
    · simp [c]
    · simp [c, show i - 16 < 16 by omega, show 16 + (i - 16) = i by omega]
  simp only [withLong, longWords, withWord, List.cons_append, List.nil_append]
  exact congrArg (k · ws) h

theorem withQuad_quadWords (q : QWord) (ws : List Word) (k : QWord → List Word → Decoded) :
    withQuad (quadWords q ++ ws) k = k q ws := by
  have h : (q.extractLsb' 48 16 ++ q.extractLsb' 32 16 : Long) ++ (q.extractLsb' 16 16 ++ q.extractLsb' 0 16 : Long) = q := by
    apply BitVec.eq_of_getLsbD_eq
    intro i hi
    simp only [BitVec.getLsbD_append, BitVec.getLsbD_extractLsb']
    by_cases c : i < 16
    · simp [c, show i < 32 by omega]
    · by_cases c2 : i < 32
      · simp [c, c2, show i - 16 < 16 by omega, show 16 + (i - 16) = i by omega]
      · by_cases c3 : i < 48
        · simp [c2, show i - 32 < 16 by omega, show 32 + (i - 32) = i by omega]
        · simp [c2, show ¬ i - 32 < 16 by omega, show i - 32 - 16 < 16 by omega, show 48 + (i - 32 - 16) = i by omega]
  simp only [withQuad, withLong, quadWords, withWord, List.cons_append, List.nil_append]
  exact congrArg (k · ws) h

/-! ### Extension words -/

theorem briefOf_briefWord (e : Brief) : briefOf (briefWord e) = e := by
  obtain ⟨da, xn, wl, scale, d8⟩ := e
  simp only [briefOf, briefWord, Brief.mk.injEq]
  refine ⟨?_, ?_, ?_, ?_, ?_⟩
  · simp only [BitVec.getLsbD_append]; simp
  · apply BitVec.eq_of_getLsbD_eq; intro i hi
    simp only [BitVec.getLsbD_extractLsb', BitVec.getLsbD_append]; interval_cases i <;> simp
  · simp only [BitVec.getLsbD_append]; simp
  · apply BitVec.eq_of_getLsbD_eq; intro i hi
    simp only [BitVec.getLsbD_extractLsb', BitVec.getLsbD_append]; interval_cases i <;> simp
  · apply BitVec.eq_of_getLsbD_eq; intro i hi
    simp only [BitVec.getLsbD_extractLsb', BitVec.getLsbD_append]; interval_cases i <;> simp

theorem briefWord_bit8 (e : Brief) : (briefWord e).getLsbD 8 = false := by
  simp only [briefWord, BitVec.getLsbD_append]; simp

theorem withBrief_briefWord (e : Brief) (ws : List Word) (k : Brief → List Word → Decoded) :
    withBrief (briefWord e :: ws) k = k e ws := by
  simp only [withBrief, withWord, briefWord_bit8, Bool.false_eq_true, if_false, briefOf_briefWord]

theorem withBaseDisp_dispWords (d : FullDisp) (ws : List Word) (k : FullDisp → List Word → Decoded) :
    withBaseDisp (dispCode d) (dispWords d ++ ws) k = k d ws := by
  cases d with
  | null => rfl
  | word w => rfl
  | long l => exact withLong_longWords l ws fun l ws => k (.long l) ws

theorem withOuter_iisWords (d : Indirection) (ws : List Word) (k : Indirection → List Word → Decoded) :
    withOuter (iisCode d) (iisWords d ++ ws) k = k d ws := by
  cases d with
  | none => rfl
  | pre od =>
    have h := withBaseDisp_dispWords od ws fun od ws => k (.pre od) ws
    cases od <;> simpa [withOuter, iisCode, dispCode, iisWords] using h
  | post od =>
    have h := withBaseDisp_dispWords od ws fun od ws => k (.post od) ws
    cases od <;> simpa [withOuter, iisCode, dispCode, iisWords] using h

/-! ### Effective addresses -/

/-- An immediate of its operand's size reads back from its words. -/
theorem withEa7_immWords (sz : Size) (v : QWord) (hv : v.toNat < 2 ^ (8 * sz.bytes)) (ws : List Word)
    (k : Ea → List Word → Decoded) : withEa7 sz 4#3 (immWords sz v ++ ws) k = k (.imm v) ws := by
  unfold withEa7
  rw [if_neg (by decide), if_neg (by decide), if_neg (by decide), if_neg (by decide), if_pos rfl]
  cases sz with
  | b =>
    have h : ((v.extractLsb' 0 8).setWidth 16).extractLsb' 0 8 = v.extractLsb' 0 8 := by
      apply BitVec.eq_of_getLsbD_eq; intro i hi; simp [hi]; omega
    have e : (v.extractLsb' 0 8).setWidth 64 = v := by
      apply BitVec.eq_of_toNat_eq; simp [Size.bytes] at *; omega
    simp only [immWords, withWord, bits, List.cons_append, List.nil_append, h, e]
  | w =>
    have e : (v.extractLsb' 0 16).setWidth 64 = v := by
      apply BitVec.eq_of_toNat_eq; simp [Size.bytes] at *; omega
    simp only [immWords, withWord, List.cons_append, List.nil_append, e]
  | l =>
    have e : (v.extractLsb' 0 32).setWidth 64 = v := by
      apply BitVec.eq_of_toNat_eq; simp [Size.bytes] at *; omega
    have := withLong_longWords (v.extractLsb' 0 32) ws fun l ws => k (.imm (l.setWidth 64)) ws
    rw [e] at this
    exact this
  | q => exact withQuad_quadWords v ws fun q ws => k (.imm q) ws

/-- An effective address reads back from its mode, register and extension words. -/
theorem withEa_eaWords (sz : Size) (ea : Ea) (h : ea.immFits sz = true) (ws : List Word)
    (k : Ea → List Word → Decoded) : withEa sz (eaMode ea) (eaReg ea) (eaWords sz ea ++ ws) k = k ea ws := by
  cases ea with
  | index n e => exact withBrief_briefWord e ws fun e ws => k (.index n e) ws
  | pcIndex e => exact withBrief_briefWord e ws fun e ws => k (.pcIndex e) ws
  | absL l => exact withLong_longWords l ws fun l ws => k (.absL l) ws
  | imm v => exact withEa7_immWords sz v (by simpa [Ea.immFits] using h) ws k
  | _ => rfl

theorem baseOf_base (r : Base) : baseOf (baseA r).msb (Encode.baseReg r) = r := by
  cases r <;> simp [baseOf, baseA, Encode.baseReg]

/-- A vector effective address reads back from its `A` bit, mode, register and extension words. -/
theorem withVea_veaWords (vea : Vea) (ws : List Word) (k : Vea → List Word → Decoded) :
    withVea (veaA vea).msb (veaMode vea) (veaReg vea) (veaWords vea ++ ws) k = k vea ws := by
  cases vea with
  | reg r =>
    have h : ∀ r : Reg5, (veaMode (.reg r) = 0#3 ∨ veaMode (.reg r) = 1#3) ∧
        BitVec.ofBool (veaA (.reg r)).msb ++ (veaMode (.reg r)).extractLsb' 0 1 ++ veaReg (.reg r) = r := by decide
    rw [withVea, if_pos (h r).1]
    exact congrArg (fun x => k (.reg x) ws) (h r).2
  | ind r => exact congrArg (fun x => k (.ind x) ws) (baseOf_base r)
  | postinc r => exact congrArg (fun x => k (.postinc x) ws) (baseOf_base r)
  | predec r => exact congrArg (fun x => k (.predec x) ws) (baseOf_base r)
  | disp r d => exact congrArg (fun x => k (.disp x d) ws) (baseOf_base r)
  | index r e =>
    have h := withBrief_briefWord e ws fun e ws => k (.index (baseOf (baseA r).msb (Encode.baseReg r)) e) ws
    rw [baseOf_base] at h
    simpa [withVea, veaA, veaMode, veaReg, veaWords, baseOf_base] using h
  | pcIndex e =>
    simpa [withVea, withVea7, veaA, veaMode, veaReg, veaWords] using
      withBrief_briefWord e ws fun e ws => k (.pcIndex e) ws
  | absL l =>
    simpa [withVea, withVea7, veaA, veaMode, veaReg, veaWords] using
      withLong_longWords l ws fun l ws => k (.absL l) ws
  | immQ v =>
    simpa [withVea, withVea7, veaA, veaMode, veaReg, veaWords] using
      withQuad_quadWords v ws fun q ws => k (.immQ q) ws
  | _ => simp [withVea, withVea7, withWord, veaA, veaMode, veaReg, veaWords, BitVec.msb]

/-! ### Codes -/

theorem withSize_sizeCode (sz : Size) (h : sz ≠ .q) (k : Size → Decoded) : withSize (sizeCode sz) k = k sz := by
  cases sz <;> first | rfl | exact absurd rfl h

theorem withFmt_fmtCode (fmt : FpFmt) (k : FpFmt → Decoded) : withFmt (fmtCode fmt) k = k fmt := by cases fmt <;> rfl

theorem withRp_rpCode (rp : RoundPrec) (k : RoundPrec → Decoded) : withRp (rpCode rp) k = k rp := by cases rp <;> rfl

end Sys2Proof
end

