-- ==== Sys2Proof/Laws/State.lean ====
section
/-!
SUPPORT. One lemma for each field under each update of the state, all tagged `simp`, and what the register
writes leave alone.
-/

namespace Sys2Proof.Machine

@[simp] theorem State.setPc_data (s : State) (a : Addr) : (s.setPc a).data = s.data := rfl
@[simp] theorem State.setPc_areg (s : State) (a : Addr) : (s.setPc a).areg = s.areg := rfl
@[simp] theorem State.setPc_breg (s : State) (a : Addr) : (s.setPc a).breg = s.breg := rfl
@[simp] theorem State.setPc_usp (s : State) (a : Addr) : (s.setPc a).usp = s.usp := rfl
@[simp] theorem State.setPc_fpr (s : State) (a : Addr) : (s.setPc a).fpr = s.fpr := rfl
@[simp] theorem State.setPc_pc (s : State) (a : Addr) : (s.setPc a).pc = a := rfl
@[simp] theorem State.setPc_sr (s : State) (a : Addr) : (s.setPc a).sr = s.sr := rfl
@[simp] theorem State.setPc_fpcc (s : State) (a : Addr) : (s.setPc a).fpcc = s.fpcc := rfl
@[simp] theorem State.setPc_pcr (s : State) (a : Addr) : (s.setPc a).pcr = s.pcr := rfl
@[simp] theorem State.setPc_counters (s : State) (a : Addr) : (s.setPc a).counters = s.counters := rfl
@[simp] theorem State.setPc_mem (s : State) (a : Addr) : (s.setPc a).mem = s.mem := rfl
@[simp] theorem State.setPc_text (s : State) (a : Addr) : (s.setPc a).text = s.text := rfl
@[simp] theorem State.setPc_regions (s : State) (a : Addr) : (s.setPc a).regions = s.regions := rfl
@[simp] theorem State.setPc_cfg (s : State) (a : Addr) : (s.setPc a).cfg = s.cfg := rfl
@[simp] theorem State.setPc_draws (s : State) (a : Addr) : (s.setPc a).draws = s.draws := rfl
@[simp] theorem State.setPc_reg (s : State) (a : Addr) (r : RegName) : (s.setPc a).reg r = s.reg r := rfl
@[simp] theorem State.setPc_quad (s : State) (a : Addr) (r : RegName) : (s.setPc a).quad r = s.quad r := rfl
@[simp] theorem State.setPc_long (s : State) (a : Addr) (r : RegName) : (s.setPc a).long r = s.long r := rfl
@[simp] theorem State.setPc_byteAt (s : State) (a : Addr) (x : Addr) : (s.setPc a).byteAt x = s.byteAt x := rfl

@[simp] theorem State.setSr_data (s : State) (f : StatusReg) : (s.setSr f).data = s.data := rfl
@[simp] theorem State.setSr_areg (s : State) (f : StatusReg) : (s.setSr f).areg = s.areg := rfl
@[simp] theorem State.setSr_breg (s : State) (f : StatusReg) : (s.setSr f).breg = s.breg := rfl
@[simp] theorem State.setSr_usp (s : State) (f : StatusReg) : (s.setSr f).usp = s.usp := rfl
@[simp] theorem State.setSr_fpr (s : State) (f : StatusReg) : (s.setSr f).fpr = s.fpr := rfl
@[simp] theorem State.setSr_pc (s : State) (f : StatusReg) : (s.setSr f).pc = s.pc := rfl
@[simp] theorem State.setSr_sr (s : State) (f : StatusReg) : (s.setSr f).sr = f := rfl
@[simp] theorem State.setSr_fpcc (s : State) (f : StatusReg) : (s.setSr f).fpcc = s.fpcc := rfl
@[simp] theorem State.setSr_pcr (s : State) (f : StatusReg) : (s.setSr f).pcr = s.pcr := rfl
@[simp] theorem State.setSr_counters (s : State) (f : StatusReg) : (s.setSr f).counters = s.counters := rfl
@[simp] theorem State.setSr_mem (s : State) (f : StatusReg) : (s.setSr f).mem = s.mem := rfl
@[simp] theorem State.setSr_text (s : State) (f : StatusReg) : (s.setSr f).text = s.text := rfl
@[simp] theorem State.setSr_regions (s : State) (f : StatusReg) : (s.setSr f).regions = s.regions := rfl
@[simp] theorem State.setSr_cfg (s : State) (f : StatusReg) : (s.setSr f).cfg = s.cfg := rfl
@[simp] theorem State.setSr_draws (s : State) (f : StatusReg) : (s.setSr f).draws = s.draws := rfl
@[simp] theorem State.setSr_reg (s : State) (f : StatusReg) (r : RegName) : (s.setSr f).reg r = s.reg r := rfl
@[simp] theorem State.setSr_quad (s : State) (f : StatusReg) (r : RegName) : (s.setSr f).quad r = s.quad r := rfl
@[simp] theorem State.setSr_long (s : State) (f : StatusReg) (r : RegName) : (s.setSr f).long r = s.long r := rfl
@[simp] theorem State.setSr_byteAt (s : State) (f : StatusReg) (x : Addr) : (s.setSr f).byteAt x = s.byteAt x := rfl

@[simp] theorem State.setFpcc_data (s : State) (f : FpCc) : (s.setFpcc f).data = s.data := rfl
@[simp] theorem State.setFpcc_areg (s : State) (f : FpCc) : (s.setFpcc f).areg = s.areg := rfl
@[simp] theorem State.setFpcc_breg (s : State) (f : FpCc) : (s.setFpcc f).breg = s.breg := rfl
@[simp] theorem State.setFpcc_usp (s : State) (f : FpCc) : (s.setFpcc f).usp = s.usp := rfl
@[simp] theorem State.setFpcc_fpr (s : State) (f : FpCc) : (s.setFpcc f).fpr = s.fpr := rfl
@[simp] theorem State.setFpcc_pc (s : State) (f : FpCc) : (s.setFpcc f).pc = s.pc := rfl
@[simp] theorem State.setFpcc_sr (s : State) (f : FpCc) : (s.setFpcc f).sr = s.sr := rfl
@[simp] theorem State.setFpcc_fpcc (s : State) (f : FpCc) : (s.setFpcc f).fpcc = f := rfl
@[simp] theorem State.setFpcc_pcr (s : State) (f : FpCc) : (s.setFpcc f).pcr = s.pcr := rfl
@[simp] theorem State.setFpcc_counters (s : State) (f : FpCc) : (s.setFpcc f).counters = s.counters := rfl
@[simp] theorem State.setFpcc_mem (s : State) (f : FpCc) : (s.setFpcc f).mem = s.mem := rfl
@[simp] theorem State.setFpcc_text (s : State) (f : FpCc) : (s.setFpcc f).text = s.text := rfl
@[simp] theorem State.setFpcc_regions (s : State) (f : FpCc) : (s.setFpcc f).regions = s.regions := rfl
@[simp] theorem State.setFpcc_cfg (s : State) (f : FpCc) : (s.setFpcc f).cfg = s.cfg := rfl
@[simp] theorem State.setFpcc_draws (s : State) (f : FpCc) : (s.setFpcc f).draws = s.draws := rfl
@[simp] theorem State.setFpcc_reg (s : State) (f : FpCc) (r : RegName) : (s.setFpcc f).reg r = s.reg r := rfl
@[simp] theorem State.setFpcc_quad (s : State) (f : FpCc) (r : RegName) : (s.setFpcc f).quad r = s.quad r := rfl
@[simp] theorem State.setFpcc_long (s : State) (f : FpCc) (r : RegName) : (s.setFpcc f).long r = s.long r := rfl
@[simp] theorem State.setFpcc_byteAt (s : State) (f : FpCc) (x : Addr) : (s.setFpcc f).byteAt x = s.byteAt x := rfl

@[simp] theorem State.setPcr_data (s : State) (p : Pcr) : (s.setPcr p).data = s.data := rfl
@[simp] theorem State.setPcr_areg (s : State) (p : Pcr) : (s.setPcr p).areg = s.areg := rfl
@[simp] theorem State.setPcr_breg (s : State) (p : Pcr) : (s.setPcr p).breg = s.breg := rfl
@[simp] theorem State.setPcr_usp (s : State) (p : Pcr) : (s.setPcr p).usp = s.usp := rfl
@[simp] theorem State.setPcr_fpr (s : State) (p : Pcr) : (s.setPcr p).fpr = s.fpr := rfl
@[simp] theorem State.setPcr_pc (s : State) (p : Pcr) : (s.setPcr p).pc = s.pc := rfl
@[simp] theorem State.setPcr_sr (s : State) (p : Pcr) : (s.setPcr p).sr = s.sr := rfl
@[simp] theorem State.setPcr_fpcc (s : State) (p : Pcr) : (s.setPcr p).fpcc = s.fpcc := rfl
@[simp] theorem State.setPcr_pcr (s : State) (p : Pcr) : (s.setPcr p).pcr = p := rfl
@[simp] theorem State.setPcr_counters (s : State) (p : Pcr) : (s.setPcr p).counters = s.counters := rfl
@[simp] theorem State.setPcr_mem (s : State) (p : Pcr) : (s.setPcr p).mem = s.mem := rfl
@[simp] theorem State.setPcr_text (s : State) (p : Pcr) : (s.setPcr p).text = s.text := rfl
@[simp] theorem State.setPcr_regions (s : State) (p : Pcr) : (s.setPcr p).regions = s.regions := rfl
@[simp] theorem State.setPcr_cfg (s : State) (p : Pcr) : (s.setPcr p).cfg = s.cfg := rfl
@[simp] theorem State.setPcr_draws (s : State) (p : Pcr) : (s.setPcr p).draws = s.draws := rfl
@[simp] theorem State.setPcr_reg (s : State) (p : Pcr) (r : RegName) : (s.setPcr p).reg r = s.reg r := rfl
@[simp] theorem State.setPcr_quad (s : State) (p : Pcr) (r : RegName) : (s.setPcr p).quad r = s.quad r := rfl
@[simp] theorem State.setPcr_long (s : State) (p : Pcr) (r : RegName) : (s.setPcr p).long r = s.long r := rfl
@[simp] theorem State.setPcr_byteAt (s : State) (p : Pcr) (x : Addr) : (s.setPcr p).byteAt x = s.byteAt x := rfl

@[simp] theorem State.setCounters_data (s : State) (c : Counters) : (s.setCounters c).data = s.data := rfl
@[simp] theorem State.setCounters_areg (s : State) (c : Counters) : (s.setCounters c).areg = s.areg := rfl
@[simp] theorem State.setCounters_breg (s : State) (c : Counters) : (s.setCounters c).breg = s.breg := rfl
@[simp] theorem State.setCounters_usp (s : State) (c : Counters) : (s.setCounters c).usp = s.usp := rfl
@[simp] theorem State.setCounters_fpr (s : State) (c : Counters) : (s.setCounters c).fpr = s.fpr := rfl
@[simp] theorem State.setCounters_pc (s : State) (c : Counters) : (s.setCounters c).pc = s.pc := rfl
@[simp] theorem State.setCounters_sr (s : State) (c : Counters) : (s.setCounters c).sr = s.sr := rfl
@[simp] theorem State.setCounters_fpcc (s : State) (c : Counters) : (s.setCounters c).fpcc = s.fpcc := rfl
@[simp] theorem State.setCounters_pcr (s : State) (c : Counters) : (s.setCounters c).pcr = s.pcr := rfl
@[simp] theorem State.setCounters_counters (s : State) (c : Counters) : (s.setCounters c).counters = c := rfl
@[simp] theorem State.setCounters_mem (s : State) (c : Counters) : (s.setCounters c).mem = s.mem := rfl
@[simp] theorem State.setCounters_text (s : State) (c : Counters) : (s.setCounters c).text = s.text := rfl
@[simp] theorem State.setCounters_regions (s : State) (c : Counters) : (s.setCounters c).regions = s.regions := rfl
@[simp] theorem State.setCounters_cfg (s : State) (c : Counters) : (s.setCounters c).cfg = s.cfg := rfl
@[simp] theorem State.setCounters_draws (s : State) (c : Counters) : (s.setCounters c).draws = s.draws := rfl
@[simp] theorem State.setCounters_reg (s : State) (c : Counters) (r : RegName) : (s.setCounters c).reg r = s.reg r := rfl
@[simp] theorem State.setCounters_quad (s : State) (c : Counters) (r : RegName) : (s.setCounters c).quad r = s.quad r := rfl
@[simp] theorem State.setCounters_long (s : State) (c : Counters) (r : RegName) : (s.setCounters c).long r = s.long r := rfl
@[simp] theorem State.setCounters_byteAt (s : State) (c : Counters) (x : Addr) : (s.setCounters c).byteAt x = s.byteAt x := rfl

@[simp] theorem State.setMem_data (s : State) (m : Memory) : (s.setMem m).data = s.data := rfl
@[simp] theorem State.setMem_areg (s : State) (m : Memory) : (s.setMem m).areg = s.areg := rfl
@[simp] theorem State.setMem_breg (s : State) (m : Memory) : (s.setMem m).breg = s.breg := rfl
@[simp] theorem State.setMem_usp (s : State) (m : Memory) : (s.setMem m).usp = s.usp := rfl
@[simp] theorem State.setMem_fpr (s : State) (m : Memory) : (s.setMem m).fpr = s.fpr := rfl
@[simp] theorem State.setMem_pc (s : State) (m : Memory) : (s.setMem m).pc = s.pc := rfl
@[simp] theorem State.setMem_sr (s : State) (m : Memory) : (s.setMem m).sr = s.sr := rfl
@[simp] theorem State.setMem_fpcc (s : State) (m : Memory) : (s.setMem m).fpcc = s.fpcc := rfl
@[simp] theorem State.setMem_pcr (s : State) (m : Memory) : (s.setMem m).pcr = s.pcr := rfl
@[simp] theorem State.setMem_counters (s : State) (m : Memory) : (s.setMem m).counters = s.counters := rfl
@[simp] theorem State.setMem_mem (s : State) (m : Memory) : (s.setMem m).mem = m := rfl
@[simp] theorem State.setMem_text (s : State) (m : Memory) : (s.setMem m).text = s.text := rfl
@[simp] theorem State.setMem_regions (s : State) (m : Memory) : (s.setMem m).regions = s.regions := rfl
@[simp] theorem State.setMem_cfg (s : State) (m : Memory) : (s.setMem m).cfg = s.cfg := rfl
@[simp] theorem State.setMem_draws (s : State) (m : Memory) : (s.setMem m).draws = s.draws := rfl
@[simp] theorem State.setMem_reg (s : State) (m : Memory) (r : RegName) : (s.setMem m).reg r = s.reg r := rfl
@[simp] theorem State.setMem_quad (s : State) (m : Memory) (r : RegName) : (s.setMem m).quad r = s.quad r := rfl
@[simp] theorem State.setMem_long (s : State) (m : Memory) (r : RegName) : (s.setMem m).long r = s.long r := rfl

@[simp] theorem State.advance_data (s : State) (n : Nat) : (s.advance n).data = s.data := rfl
@[simp] theorem State.advance_areg (s : State) (n : Nat) : (s.advance n).areg = s.areg := rfl
@[simp] theorem State.advance_breg (s : State) (n : Nat) : (s.advance n).breg = s.breg := rfl
@[simp] theorem State.advance_usp (s : State) (n : Nat) : (s.advance n).usp = s.usp := rfl
@[simp] theorem State.advance_fpr (s : State) (n : Nat) : (s.advance n).fpr = s.fpr := rfl
@[simp] theorem State.advance_pc (s : State) (n : Nat) : (s.advance n).pc = s.pc + BitVec.ofNat 32 n := rfl
@[simp] theorem State.advance_sr (s : State) (n : Nat) : (s.advance n).sr = s.sr := rfl
@[simp] theorem State.advance_fpcc (s : State) (n : Nat) : (s.advance n).fpcc = s.fpcc := rfl
@[simp] theorem State.advance_pcr (s : State) (n : Nat) : (s.advance n).pcr = s.pcr := rfl
@[simp] theorem State.advance_counters (s : State) (n : Nat) : (s.advance n).counters = s.counters := rfl
@[simp] theorem State.advance_mem (s : State) (n : Nat) : (s.advance n).mem = s.mem := rfl
@[simp] theorem State.advance_text (s : State) (n : Nat) : (s.advance n).text = s.text := rfl
@[simp] theorem State.advance_regions (s : State) (n : Nat) : (s.advance n).regions = s.regions := rfl
@[simp] theorem State.advance_cfg (s : State) (n : Nat) : (s.advance n).cfg = s.cfg := rfl
@[simp] theorem State.advance_draws (s : State) (n : Nat) : (s.advance n).draws = s.draws := rfl
@[simp] theorem State.advance_reg (s : State) (n : Nat) (r : RegName) : (s.advance n).reg r = s.reg r := rfl
@[simp] theorem State.advance_quad (s : State) (n : Nat) (r : RegName) : (s.advance n).quad r = s.quad r := rfl
@[simp] theorem State.advance_long (s : State) (n : Nat) (r : RegName) : (s.advance n).long r = s.long r := rfl
@[simp] theorem State.advance_byteAt (s : State) (n : Nat) (x : Addr) : (s.advance n).byteAt x = s.byteAt x := rfl

@[simp] theorem State.drawn_data (s : State) : s.drawn.data = s.data := rfl
@[simp] theorem State.drawn_areg (s : State) : s.drawn.areg = s.areg := rfl
@[simp] theorem State.drawn_breg (s : State) : s.drawn.breg = s.breg := rfl
@[simp] theorem State.drawn_usp (s : State) : s.drawn.usp = s.usp := rfl
@[simp] theorem State.drawn_fpr (s : State) : s.drawn.fpr = s.fpr := rfl
@[simp] theorem State.drawn_pc (s : State) : s.drawn.pc = s.pc := rfl
@[simp] theorem State.drawn_sr (s : State) : s.drawn.sr = s.sr := rfl
@[simp] theorem State.drawn_fpcc (s : State) : s.drawn.fpcc = s.fpcc := rfl
@[simp] theorem State.drawn_pcr (s : State) : s.drawn.pcr = s.pcr := rfl
@[simp] theorem State.drawn_counters (s : State) : s.drawn.counters = s.counters := rfl
@[simp] theorem State.drawn_mem (s : State) : s.drawn.mem = s.mem := rfl
@[simp] theorem State.drawn_text (s : State) : s.drawn.text = s.text := rfl
@[simp] theorem State.drawn_regions (s : State) : s.drawn.regions = s.regions := rfl
@[simp] theorem State.drawn_cfg (s : State) : s.drawn.cfg = s.cfg := rfl
@[simp] theorem State.drawn_draws (s : State) : s.drawn.draws = s.draws + 1 := rfl
@[simp] theorem State.drawn_reg (s : State) (r : RegName) : s.drawn.reg r = s.reg r := rfl
@[simp] theorem State.drawn_quad (s : State) (r : RegName) : s.drawn.quad r = s.quad r := rfl
@[simp] theorem State.drawn_long (s : State) (r : RegName) : s.drawn.long r = s.long r := rfl
@[simp] theorem State.drawn_byteAt (s : State) (x : Addr) : s.drawn.byteAt x = s.byteAt x := rfl

@[simp] theorem State.setReg_usp (s : State) (r : RegName) (v : Reg64) : (s.setReg r v).usp = s.usp := by
  cases r <;> rfl
@[simp] theorem State.setReg_fpr (s : State) (r : RegName) (v : Reg64) : (s.setReg r v).fpr = s.fpr := by
  cases r <;> rfl
@[simp] theorem State.setReg_pc (s : State) (r : RegName) (v : Reg64) : (s.setReg r v).pc = s.pc := by
  cases r <;> rfl
@[simp] theorem State.setReg_sr (s : State) (r : RegName) (v : Reg64) : (s.setReg r v).sr = s.sr := by
  cases r <;> rfl
@[simp] theorem State.setReg_fpcc (s : State) (r : RegName) (v : Reg64) : (s.setReg r v).fpcc = s.fpcc := by
  cases r <;> rfl
@[simp] theorem State.setReg_pcr (s : State) (r : RegName) (v : Reg64) : (s.setReg r v).pcr = s.pcr := by
  cases r <;> rfl
@[simp] theorem State.setReg_counters (s : State) (r : RegName) (v : Reg64) : (s.setReg r v).counters = s.counters := by
  cases r <;> rfl
@[simp] theorem State.setReg_mem (s : State) (r : RegName) (v : Reg64) : (s.setReg r v).mem = s.mem := by
  cases r <;> rfl
@[simp] theorem State.setReg_text (s : State) (r : RegName) (v : Reg64) : (s.setReg r v).text = s.text := by
  cases r <;> rfl
@[simp] theorem State.setReg_regions (s : State) (r : RegName) (v : Reg64) : (s.setReg r v).regions = s.regions := by
  cases r <;> rfl
@[simp] theorem State.setReg_cfg (s : State) (r : RegName) (v : Reg64) : (s.setReg r v).cfg = s.cfg := by
  cases r <;> rfl
@[simp] theorem State.setReg_draws (s : State) (r : RegName) (v : Reg64) : (s.setReg r v).draws = s.draws := by
  cases r <;> rfl

@[simp] theorem State.setReg_byteAt (s : State) (r : RegName) (v : Reg64) (x : Addr) :
    (s.setReg r v).byteAt x = s.byteAt x := by cases r <;> rfl

@[simp] theorem State.reg_setReg_self (s : State) (r : RegName) (v : Reg64) : (s.setReg r v).reg r = v := by
  cases r <;> simp [State.reg, State.setReg]

theorem State.reg_setReg_ne (s : State) (r r' : RegName) (v : Reg64) (h : r' ≠ r) :
    (s.setReg r v).reg r' = s.reg r' := by
  cases r <;> cases r' <;> simp only [State.reg, State.setReg]
  all_goals
    rw [Vector.getElem_set_ne]
    intro e
    exact h (by rw [BitVec.eq_of_toNat_eq e])

/-- A register write, seen from every register. -/
theorem State.reg_setReg (s : State) (r r' : RegName) (v : Reg64) :
    (s.setReg r v).reg r' = if r' = r then v else s.reg r' := by
  split
  · next h => rw [h, State.reg_setReg_self]
  · next h => exact State.reg_setReg_ne s r r' v h

@[simp] theorem State.afterUpper_data (s : State) : s.afterUpper.data = s.data := by
  unfold State.afterUpper; cases s.cfg.upper32 <;> rfl
@[simp] theorem State.afterUpper_areg (s : State) : s.afterUpper.areg = s.areg := by
  unfold State.afterUpper; cases s.cfg.upper32 <;> rfl
@[simp] theorem State.afterUpper_breg (s : State) : s.afterUpper.breg = s.breg := by
  unfold State.afterUpper; cases s.cfg.upper32 <;> rfl
@[simp] theorem State.afterUpper_usp (s : State) : s.afterUpper.usp = s.usp := by
  unfold State.afterUpper; cases s.cfg.upper32 <;> rfl
@[simp] theorem State.afterUpper_fpr (s : State) : s.afterUpper.fpr = s.fpr := by
  unfold State.afterUpper; cases s.cfg.upper32 <;> rfl
@[simp] theorem State.afterUpper_pc (s : State) : s.afterUpper.pc = s.pc := by
  unfold State.afterUpper; cases s.cfg.upper32 <;> rfl
@[simp] theorem State.afterUpper_sr (s : State) : s.afterUpper.sr = s.sr := by
  unfold State.afterUpper; cases s.cfg.upper32 <;> rfl
@[simp] theorem State.afterUpper_fpcc (s : State) : s.afterUpper.fpcc = s.fpcc := by
  unfold State.afterUpper; cases s.cfg.upper32 <;> rfl
@[simp] theorem State.afterUpper_pcr (s : State) : s.afterUpper.pcr = s.pcr := by
  unfold State.afterUpper; cases s.cfg.upper32 <;> rfl
@[simp] theorem State.afterUpper_counters (s : State) : s.afterUpper.counters = s.counters := by
  unfold State.afterUpper; cases s.cfg.upper32 <;> rfl
@[simp] theorem State.afterUpper_mem (s : State) : s.afterUpper.mem = s.mem := by
  unfold State.afterUpper; cases s.cfg.upper32 <;> rfl
@[simp] theorem State.afterUpper_text (s : State) : s.afterUpper.text = s.text := by
  unfold State.afterUpper; cases s.cfg.upper32 <;> rfl
@[simp] theorem State.afterUpper_regions (s : State) : s.afterUpper.regions = s.regions := by
  unfold State.afterUpper; cases s.cfg.upper32 <;> rfl
@[simp] theorem State.afterUpper_cfg (s : State) : s.afterUpper.cfg = s.cfg := by
  unfold State.afterUpper; cases s.cfg.upper32 <;> rfl
@[simp] theorem State.afterUpper_reg (s : State) (r : RegName) : s.afterUpper.reg r = s.reg r := by
  unfold State.afterUpper; cases s.cfg.upper32 <;> rfl
@[simp] theorem State.afterUpper_quad (s : State) (r : RegName) : s.afterUpper.quad r = s.quad r := by
  unfold State.afterUpper; cases s.cfg.upper32 <;> rfl
@[simp] theorem State.afterUpper_long (s : State) (r : RegName) : s.afterUpper.long r = s.long r := by
  unfold State.afterUpper; cases s.cfg.upper32 <;> rfl
@[simp] theorem State.afterUpper_byteAt (s : State) (r : Addr) : s.afterUpper.byteAt r = s.byteAt r := by
  unfold State.afterUpper; cases s.cfg.upper32 <;> rfl

@[simp] theorem State.afterKept_data (s : State) : s.afterKept.data = s.data := by
  unfold State.afterKept; cases s.cfg.fpFraction <;> rfl
@[simp] theorem State.afterKept_areg (s : State) : s.afterKept.areg = s.areg := by
  unfold State.afterKept; cases s.cfg.fpFraction <;> rfl
@[simp] theorem State.afterKept_breg (s : State) : s.afterKept.breg = s.breg := by
  unfold State.afterKept; cases s.cfg.fpFraction <;> rfl
@[simp] theorem State.afterKept_usp (s : State) : s.afterKept.usp = s.usp := by
  unfold State.afterKept; cases s.cfg.fpFraction <;> rfl
@[simp] theorem State.afterKept_fpr (s : State) : s.afterKept.fpr = s.fpr := by
  unfold State.afterKept; cases s.cfg.fpFraction <;> rfl
@[simp] theorem State.afterKept_pc (s : State) : s.afterKept.pc = s.pc := by
  unfold State.afterKept; cases s.cfg.fpFraction <;> rfl
@[simp] theorem State.afterKept_sr (s : State) : s.afterKept.sr = s.sr := by
  unfold State.afterKept; cases s.cfg.fpFraction <;> rfl
@[simp] theorem State.afterKept_fpcc (s : State) : s.afterKept.fpcc = s.fpcc := by
  unfold State.afterKept; cases s.cfg.fpFraction <;> rfl
@[simp] theorem State.afterKept_pcr (s : State) : s.afterKept.pcr = s.pcr := by
  unfold State.afterKept; cases s.cfg.fpFraction <;> rfl
@[simp] theorem State.afterKept_counters (s : State) : s.afterKept.counters = s.counters := by
  unfold State.afterKept; cases s.cfg.fpFraction <;> rfl
@[simp] theorem State.afterKept_mem (s : State) : s.afterKept.mem = s.mem := by
  unfold State.afterKept; cases s.cfg.fpFraction <;> rfl
@[simp] theorem State.afterKept_text (s : State) : s.afterKept.text = s.text := by
  unfold State.afterKept; cases s.cfg.fpFraction <;> rfl
@[simp] theorem State.afterKept_regions (s : State) : s.afterKept.regions = s.regions := by
  unfold State.afterKept; cases s.cfg.fpFraction <;> rfl
@[simp] theorem State.afterKept_cfg (s : State) : s.afterKept.cfg = s.cfg := by
  unfold State.afterKept; cases s.cfg.fpFraction <;> rfl
@[simp] theorem State.afterKept_reg (s : State) (r : RegName) : s.afterKept.reg r = s.reg r := by
  unfold State.afterKept; cases s.cfg.fpFraction <;> rfl
@[simp] theorem State.afterKept_quad (s : State) (r : RegName) : s.afterKept.quad r = s.quad r := by
  unfold State.afterKept; cases s.cfg.fpFraction <;> rfl
@[simp] theorem State.afterKept_long (s : State) (r : RegName) : s.afterKept.long r = s.long r := by
  unfold State.afterKept; cases s.cfg.fpFraction <;> rfl
@[simp] theorem State.afterKept_byteAt (s : State) (r : Addr) : s.afterKept.byteAt r = s.byteAt r := by
  unfold State.afterKept; cases s.cfg.fpFraction <;> rfl

@[simp] theorem State.drawnIf_data (s : State) (p : Bool) : (s.drawnIf p).data = s.data := by cases p <;> rfl
@[simp] theorem State.drawnIf_areg (s : State) (p : Bool) : (s.drawnIf p).areg = s.areg := by cases p <;> rfl
@[simp] theorem State.drawnIf_breg (s : State) (p : Bool) : (s.drawnIf p).breg = s.breg := by cases p <;> rfl
@[simp] theorem State.drawnIf_usp (s : State) (p : Bool) : (s.drawnIf p).usp = s.usp := by cases p <;> rfl
@[simp] theorem State.drawnIf_fpr (s : State) (p : Bool) : (s.drawnIf p).fpr = s.fpr := by cases p <;> rfl
@[simp] theorem State.drawnIf_pc (s : State) (p : Bool) : (s.drawnIf p).pc = s.pc := by cases p <;> rfl
@[simp] theorem State.drawnIf_sr (s : State) (p : Bool) : (s.drawnIf p).sr = s.sr := by cases p <;> rfl
@[simp] theorem State.drawnIf_fpcc (s : State) (p : Bool) : (s.drawnIf p).fpcc = s.fpcc := by cases p <;> rfl
@[simp] theorem State.drawnIf_pcr (s : State) (p : Bool) : (s.drawnIf p).pcr = s.pcr := by cases p <;> rfl
@[simp] theorem State.drawnIf_counters (s : State) (p : Bool) : (s.drawnIf p).counters = s.counters := by cases p <;> rfl
@[simp] theorem State.drawnIf_mem (s : State) (p : Bool) : (s.drawnIf p).mem = s.mem := by cases p <;> rfl
@[simp] theorem State.drawnIf_text (s : State) (p : Bool) : (s.drawnIf p).text = s.text := by cases p <;> rfl
@[simp] theorem State.drawnIf_regions (s : State) (p : Bool) : (s.drawnIf p).regions = s.regions := by cases p <;> rfl
@[simp] theorem State.drawnIf_cfg (s : State) (p : Bool) : (s.drawnIf p).cfg = s.cfg := by cases p <;> rfl
@[simp] theorem State.drawnIf_reg (s : State) (p : Bool) (r : RegName) : (s.drawnIf p).reg r = s.reg r := by
  cases p <;> rfl
@[simp] theorem State.drawnIf_quad (s : State) (p : Bool) (r : RegName) : (s.drawnIf p).quad r = s.quad r := by
  cases p <;> rfl
@[simp] theorem State.drawnIf_long (s : State) (p : Bool) (r : RegName) : (s.drawnIf p).long r = s.long r := by
  cases p <;> rfl
@[simp] theorem State.drawnIf_byteAt (s : State) (p : Bool) (r : Addr) : (s.drawnIf p).byteAt r = s.byteAt r := by
  cases p <;> rfl

@[simp] theorem State.setQuad_usp (s : State) (r : RegName) (v : QWord) : (s.setQuad r v).usp = s.usp := by
  simp [State.setQuad]
@[simp] theorem State.setQuad_fpr (s : State) (r : RegName) (v : QWord) : (s.setQuad r v).fpr = s.fpr := by
  simp [State.setQuad]
@[simp] theorem State.setQuad_pc (s : State) (r : RegName) (v : QWord) : (s.setQuad r v).pc = s.pc := by
  simp [State.setQuad]
@[simp] theorem State.setQuad_sr (s : State) (r : RegName) (v : QWord) : (s.setQuad r v).sr = s.sr := by
  simp [State.setQuad]
@[simp] theorem State.setQuad_fpcc (s : State) (r : RegName) (v : QWord) : (s.setQuad r v).fpcc = s.fpcc := by
  simp [State.setQuad]
@[simp] theorem State.setQuad_pcr (s : State) (r : RegName) (v : QWord) : (s.setQuad r v).pcr = s.pcr := by
  simp [State.setQuad]
@[simp] theorem State.setQuad_counters (s : State) (r : RegName) (v : QWord) : (s.setQuad r v).counters = s.counters := by
  simp [State.setQuad]
@[simp] theorem State.setQuad_mem (s : State) (r : RegName) (v : QWord) : (s.setQuad r v).mem = s.mem := by
  simp [State.setQuad]
@[simp] theorem State.setQuad_text (s : State) (r : RegName) (v : QWord) : (s.setQuad r v).text = s.text := by
  simp [State.setQuad]
@[simp] theorem State.setQuad_regions (s : State) (r : RegName) (v : QWord) : (s.setQuad r v).regions = s.regions := by
  simp [State.setQuad]
@[simp] theorem State.setQuad_cfg (s : State) (r : RegName) (v : QWord) : (s.setQuad r v).cfg = s.cfg := by
  simp [State.setQuad]
@[simp] theorem State.setQuad_draws (s : State) (r : RegName) (v : QWord) : (s.setQuad r v).draws = s.draws := by
  simp [State.setQuad]
@[simp] theorem State.setQuad_byteAt (s : State) (r : RegName) (v : QWord) (x : Addr) : (s.setQuad r v).byteAt x = s.byteAt x := by
  simp [State.setQuad]

@[simp] theorem State.setLong_usp (s : State) (r : RegName) (v : Long) : (s.setLong r v).usp = s.usp := by
  simp [State.setLong]
@[simp] theorem State.setLong_fpr (s : State) (r : RegName) (v : Long) : (s.setLong r v).fpr = s.fpr := by
  simp [State.setLong]
@[simp] theorem State.setLong_pc (s : State) (r : RegName) (v : Long) : (s.setLong r v).pc = s.pc := by
  simp [State.setLong]
@[simp] theorem State.setLong_sr (s : State) (r : RegName) (v : Long) : (s.setLong r v).sr = s.sr := by
  simp [State.setLong]
@[simp] theorem State.setLong_fpcc (s : State) (r : RegName) (v : Long) : (s.setLong r v).fpcc = s.fpcc := by
  simp [State.setLong]
@[simp] theorem State.setLong_pcr (s : State) (r : RegName) (v : Long) : (s.setLong r v).pcr = s.pcr := by
  simp [State.setLong]
@[simp] theorem State.setLong_counters (s : State) (r : RegName) (v : Long) : (s.setLong r v).counters = s.counters := by
  simp [State.setLong]
@[simp] theorem State.setLong_mem (s : State) (r : RegName) (v : Long) : (s.setLong r v).mem = s.mem := by
  simp [State.setLong]
@[simp] theorem State.setLong_text (s : State) (r : RegName) (v : Long) : (s.setLong r v).text = s.text := by
  simp [State.setLong]
@[simp] theorem State.setLong_regions (s : State) (r : RegName) (v : Long) : (s.setLong r v).regions = s.regions := by
  simp [State.setLong]
@[simp] theorem State.setLong_cfg (s : State) (r : RegName) (v : Long) : (s.setLong r v).cfg = s.cfg := by
  simp [State.setLong]
@[simp] theorem State.setLong_byteAt (s : State) (r : RegName) (v : Long) (x : Addr) : (s.setLong r v).byteAt x = s.byteAt x := by
  simp [State.setLong]

@[simp] theorem State.setHigh_usp (s : State) (r : RegName) (v : Word) : (s.setHigh r v).usp = s.usp := by
  simp [State.setHigh, State.setLong]
@[simp] theorem State.setHigh_fpr (s : State) (r : RegName) (v : Word) : (s.setHigh r v).fpr = s.fpr := by
  simp [State.setHigh, State.setLong]
@[simp] theorem State.setHigh_pc (s : State) (r : RegName) (v : Word) : (s.setHigh r v).pc = s.pc := by
  simp [State.setHigh, State.setLong]
@[simp] theorem State.setHigh_sr (s : State) (r : RegName) (v : Word) : (s.setHigh r v).sr = s.sr := by
  simp [State.setHigh, State.setLong]
@[simp] theorem State.setHigh_fpcc (s : State) (r : RegName) (v : Word) : (s.setHigh r v).fpcc = s.fpcc := by
  simp [State.setHigh, State.setLong]
@[simp] theorem State.setHigh_pcr (s : State) (r : RegName) (v : Word) : (s.setHigh r v).pcr = s.pcr := by
  simp [State.setHigh, State.setLong]
@[simp] theorem State.setHigh_counters (s : State) (r : RegName) (v : Word) : (s.setHigh r v).counters = s.counters := by
  simp [State.setHigh, State.setLong]
@[simp] theorem State.setHigh_mem (s : State) (r : RegName) (v : Word) : (s.setHigh r v).mem = s.mem := by
  simp [State.setHigh, State.setLong]
@[simp] theorem State.setHigh_text (s : State) (r : RegName) (v : Word) : (s.setHigh r v).text = s.text := by
  simp [State.setHigh, State.setLong]
@[simp] theorem State.setHigh_regions (s : State) (r : RegName) (v : Word) : (s.setHigh r v).regions = s.regions := by
  simp [State.setHigh, State.setLong]
@[simp] theorem State.setHigh_cfg (s : State) (r : RegName) (v : Word) : (s.setHigh r v).cfg = s.cfg := by
  simp [State.setHigh, State.setLong]
@[simp] theorem State.setHigh_byteAt (s : State) (r : RegName) (v : Word) (x : Addr) : (s.setHigh r v).byteAt x = s.byteAt x := by
  simp [State.setHigh, State.setLong]

@[simp] theorem State.setPart_usp (s : State) (sz : Size) (r : RegName) (v : QWord) :
    (s.setPart sz r v).usp = s.usp := by cases sz <;> simp [State.setPart]
@[simp] theorem State.setPart_fpr (s : State) (sz : Size) (r : RegName) (v : QWord) :
    (s.setPart sz r v).fpr = s.fpr := by cases sz <;> simp [State.setPart]
@[simp] theorem State.setPart_pc (s : State) (sz : Size) (r : RegName) (v : QWord) :
    (s.setPart sz r v).pc = s.pc := by cases sz <;> simp [State.setPart]
@[simp] theorem State.setPart_sr (s : State) (sz : Size) (r : RegName) (v : QWord) :
    (s.setPart sz r v).sr = s.sr := by cases sz <;> simp [State.setPart]
@[simp] theorem State.setPart_fpcc (s : State) (sz : Size) (r : RegName) (v : QWord) :
    (s.setPart sz r v).fpcc = s.fpcc := by cases sz <;> simp [State.setPart]
@[simp] theorem State.setPart_pcr (s : State) (sz : Size) (r : RegName) (v : QWord) :
    (s.setPart sz r v).pcr = s.pcr := by cases sz <;> simp [State.setPart]
@[simp] theorem State.setPart_counters (s : State) (sz : Size) (r : RegName) (v : QWord) :
    (s.setPart sz r v).counters = s.counters := by cases sz <;> simp [State.setPart]
@[simp] theorem State.setPart_mem (s : State) (sz : Size) (r : RegName) (v : QWord) :
    (s.setPart sz r v).mem = s.mem := by cases sz <;> simp [State.setPart]
@[simp] theorem State.setPart_text (s : State) (sz : Size) (r : RegName) (v : QWord) :
    (s.setPart sz r v).text = s.text := by cases sz <;> simp [State.setPart]
@[simp] theorem State.setPart_regions (s : State) (sz : Size) (r : RegName) (v : QWord) :
    (s.setPart sz r v).regions = s.regions := by cases sz <;> simp [State.setPart]
@[simp] theorem State.setPart_cfg (s : State) (sz : Size) (r : RegName) (v : QWord) :
    (s.setPart sz r v).cfg = s.cfg := by cases sz <;> simp [State.setPart]
@[simp] theorem State.setPart_byteAt (s : State) (sz : Size) (r : RegName) (v : QWord) (x : Addr) :
    (s.setPart sz r v).byteAt x = s.byteAt x := by cases sz <;> simp [State.setPart]

@[simp] theorem State.setFp_usp (s : State) (k : Reg5) (x : QWord) : (s.setFp k x).usp = s.usp := by
  unfold State.setFp State.putFp; split <;> simp
@[simp] theorem State.setFp_pc (s : State) (k : Reg5) (x : QWord) : (s.setFp k x).pc = s.pc := by
  unfold State.setFp State.putFp; split <;> simp
@[simp] theorem State.setFp_sr (s : State) (k : Reg5) (x : QWord) : (s.setFp k x).sr = s.sr := by
  unfold State.setFp State.putFp; split <;> simp
@[simp] theorem State.setFp_fpcc (s : State) (k : Reg5) (x : QWord) : (s.setFp k x).fpcc = s.fpcc := by
  unfold State.setFp State.putFp; split <;> simp
@[simp] theorem State.setFp_pcr (s : State) (k : Reg5) (x : QWord) : (s.setFp k x).pcr = s.pcr := by
  unfold State.setFp State.putFp; split <;> simp
@[simp] theorem State.setFp_counters (s : State) (k : Reg5) (x : QWord) : (s.setFp k x).counters = s.counters := by
  unfold State.setFp State.putFp; split <;> simp
@[simp] theorem State.setFp_mem (s : State) (k : Reg5) (x : QWord) : (s.setFp k x).mem = s.mem := by
  unfold State.setFp State.putFp; split <;> simp
@[simp] theorem State.setFp_text (s : State) (k : Reg5) (x : QWord) : (s.setFp k x).text = s.text := by
  unfold State.setFp State.putFp; split <;> simp
@[simp] theorem State.setFp_regions (s : State) (k : Reg5) (x : QWord) : (s.setFp k x).regions = s.regions := by
  unfold State.setFp State.putFp; split <;> simp
@[simp] theorem State.setFp_cfg (s : State) (k : Reg5) (x : QWord) : (s.setFp k x).cfg = s.cfg := by
  unfold State.setFp State.putFp; split <;> simp
@[simp] theorem State.setFp_byteAt (s : State) (k : Reg5) (x : QWord) (a : Addr) :
    (s.setFp k x).byteAt a = s.byteAt a := by
  unfold State.byteAt; simp

/-! ### What a register write leaves in the registers (rules R21, R24) -/

@[simp] theorem Reg64.quad_ofQuad (v : QWord) : (Reg64.ofQuad v).quad = v := by
  apply BitVec.eq_of_getLsbD_eq
  intro i h
  simp only [Reg64.quad, Reg64.ofQuad, BitVec.getLsbD_append, BitVec.getLsbD_extractLsb']
  by_cases hi : i < 32
  · simp [hi]
  · have e : 32 + (i - 32) = i := by omega
    have l : i - 32 < 32 := by omega
    simp [hi, e, l]

@[simp] theorem State.quad_setQuad_self (s : State) (r : RegName) (v : QWord) : (s.setQuad r v).quad r = v := by
  simp [State.quad, State.setQuad]

theorem State.reg_setQuad_ne (s : State) (r r' : RegName) (v : QWord) (h : r' ≠ r) :
    (s.setQuad r v).reg r' = s.reg r' := State.reg_setReg_ne s r r' _ h

@[simp] theorem State.long_setLong_self (s : State) (r : RegName) (v : Long) : (s.setLong r v).long r = v := by
  simp [State.long, State.setLong]

theorem State.reg_setLong_ne (s : State) (r r' : RegName) (v : Long) (h : r' ≠ r) :
    (s.setLong r v).reg r' = s.reg r' := by
  simp [State.setLong, State.reg_setReg_ne _ _ _ _ h]

theorem State.reg_setPart_ne (s : State) (sz : Size) (r r' : RegName) (v : QWord) (h : r' ≠ r) :
    (s.setPart sz r v).reg r' = s.reg r' := by
  cases sz <;> simp [State.setPart, State.reg_setLong_ne _ _ _ _ h, State.reg_setQuad_ne _ _ _ _ h]

theorem State.reg_setHigh_ne (s : State) (r r' : RegName) (v : Word) (h : r' ≠ r) :
    (s.setHigh r v).reg r' = s.reg r' := State.reg_setLong_ne s r r' _ h

end Sys2Proof.Machine
end

