-- ==== Sys2Proof/Laws/Memory.lean ====
section
/-!
SUPPORT. Memory: what a byte reads as after a write, that every operation keeps the canonical form, and what
the memory operations can answer (rules R60 to R72, R80).
-/

namespace Sys2Proof.Machine

/-! ### One byte -/

theorem Memory.byte_set (m : Memory) (a b : Nat) (v : Byte) (lo : Nat) (h : m.wfFrom lo = true) :
    (m.set a v).byte b = if b = a then v else m.byte b := by
  induction m generalizing lo with
  | nil =>
    simp only [Memory.set, Memory.byte]
    split
    · next hv => simp [Memory.byte, hv]
    · simp [Memory.byte]
  | cons c rest ih =>
    obtain ⟨x, w⟩ := c
    simp only [Memory.wfFrom, Bool.and_eq_true, decide_eq_true_eq] at h
    obtain ⟨⟨⟨hlo, _⟩, _⟩, hrest⟩ := h
    have above : ∀ (r : Memory) (l y : Nat), r.wfFrom l = true → y < l → r.byte y = unlistedByte := by
      intro r
      induction r with
      | nil => intros; rfl
      | cons d r ihr =>
        intro l y hr hy
        obtain ⟨z, u⟩ := d
        simp only [Memory.wfFrom, Bool.and_eq_true, decide_eq_true_eq] at hr
        simp only [Memory.byte]
        rw [if_neg (by omega)]
        exact ihr (z + 1) y hr.2 (by omega)
    simp only [Memory.set]
    split
    · next hlt =>
      split
      · next hv =>
        by_cases hb : b = a
        · subst hb
          simp only [Memory.byte, if_true]
          rw [if_neg (by omega), above rest (x + 1) b hrest (by omega), hv]
        · simp [hb]
      · by_cases hb : b = a <;> simp [Memory.byte, hb]
    · split
      · next hax =>
        subst hax
        split
        · next hv =>
          by_cases hb : b = a
          · subst hb; simp [above rest (b + 1) b hrest (by omega), hv]
          · simp [Memory.byte, hb]
        · by_cases hb : b = a <;> simp [Memory.byte, hb]
      · next hne =>
        simp only [Memory.byte]
        by_cases hbx : b = x
        · subst hbx; simp [show b ≠ a by omega]
        · simp [hbx, ih (x + 1) hrest]

theorem Memory.wfFrom_mono (m : Memory) (l l' : Nat) (h : m.wfFrom l = true) (hl : l' ≤ l) :
    m.wfFrom l' = true := by
  cases m with
  | nil => rfl
  | cons c rest =>
    simp only [Memory.wfFrom, Bool.and_eq_true, decide_eq_true_eq] at h ⊢
    exact ⟨⟨⟨by omega, h.1.1.2⟩, h.1.2⟩, h.2⟩

theorem Memory.wfFrom_set (m : Memory) (lo a : Nat) (v : Byte) (h : m.wfFrom lo = true) (hlo : lo ≤ a)
    (ha : a < 2 ^ 32) : (m.set a v).wfFrom lo = true := by
  induction m generalizing lo with
  | nil =>
    simp only [Memory.set]
    split
    · rfl
    · next hv =>
      simp only [Memory.wfFrom, Bool.and_eq_true, decide_eq_true_eq, bne_iff_ne, ne_eq]
      exact ⟨⟨⟨hlo, ha⟩, hv⟩, trivial⟩
  | cons c rest ih =>
    obtain ⟨x, w⟩ := c
    have h' := h
    simp only [Memory.wfFrom, Bool.and_eq_true, decide_eq_true_eq, bne_iff_ne, ne_eq] at h
    obtain ⟨⟨⟨hx, hx2⟩, hw⟩, hrest⟩ := h
    simp only [Memory.set]
    split
    · next hlt =>
      split
      · exact h'
      · next hv =>
        simp only [Memory.wfFrom, Bool.and_eq_true, decide_eq_true_eq, bne_iff_ne, ne_eq]
        exact ⟨⟨⟨hlo, ha⟩, hv⟩, ⟨⟨by omega, hx2⟩, hw⟩, hrest⟩
    · split
      · next hax =>
        split
        · exact Memory.wfFrom_mono rest (x + 1) lo hrest (by omega)
        · next hv =>
          subst hax
          simp only [Memory.wfFrom, Bool.and_eq_true, decide_eq_true_eq, bne_iff_ne, ne_eq]
          exact ⟨⟨⟨hlo, ha⟩, hv⟩, hrest⟩
      · next hne =>
        simp only [Memory.wfFrom, Bool.and_eq_true, decide_eq_true_eq, bne_iff_ne, ne_eq]
        exact ⟨⟨⟨hx, hx2⟩, hw⟩, ih (x + 1) hrest (by omega)⟩

/-- A byte written keeps the canonical form. -/
theorem Memory.wf_set (m : Memory) (a : Addr) (v : Byte) (h : m.wf = true) : (m.set a.toNat v).wf = true :=
  Memory.wfFrom_set m 0 a.toNat v h (Nat.zero_le _) a.isLt

/-! ### A row of bytes -/

/-- A store keeps the canonical form. -/
theorem Memory.wf_store (bs : List (Option Byte)) (m : Memory) (a : Addr) (h : m.wf = true) :
    (m.store a bs).wf = true := by
  induction bs generalizing m a with
  | nil => exact h
  | cons b bs ih =>
    cases b with
    | none => exact ih m (a + 1) h
    | some v => exact ih _ (a + 1) (Memory.wf_set m a v h)

/-- A byte outside the written addresses reads as before. -/
theorem Memory.byte_store_ne (bs : List (Option Byte)) (m : Memory) (a x : Addr) (h : m.wf = true)
    (hx : x ∉ written a bs) : (m.store a bs).byte x.toNat = m.byte x.toNat := by
  induction bs generalizing m a with
  | nil => rfl
  | cons b bs ih =>
    cases b with
    | none => exact ih m (a + 1) h hx
    | some v =>
      simp only [written, List.mem_cons, not_or] at hx
      simp only [Memory.store]
      rw [ih _ _ (Memory.wf_set m a v h) hx.2, Memory.byte_set m _ _ v 0 h, if_neg]
      intro e
      exact hx.1 (BitVec.eq_of_toNat_eq e)

/-- The addresses written lie in the row. -/
theorem mem_written (bs : List (Option Byte)) (a x : Addr) (hx : x ∈ written a bs) :
    ∃ i, i < bs.length ∧ x = a + BitVec.ofNat 32 i := by
  induction bs generalizing a with
  | nil => cases hx
  | cons b bs ih =>
    have next : x ∈ written (a + 1) bs → ∃ i, i < (b :: bs).length ∧ x = a + BitVec.ofNat 32 i := by
      intro h
      obtain ⟨i, hi, e⟩ := ih (a + 1) h
      refine ⟨i + 1, by simp only [List.length_cons]; omega, ?_⟩
      rw [e, BitVec.add_assoc]
      congr 1
      apply BitVec.eq_of_toNat_eq
      simp [Nat.add_comm]
    cases b with
    | none => exact next hx
    | some v =>
      simp only [written, List.mem_cons] at hx
      rcases hx with rfl | h
      · exact ⟨0, by simp, by simp⟩
      · exact next h

/-- A byte of the row reads as what was written there; a byte not selected as before. -/
theorem Memory.byte_store (bs : List (Option Byte)) (m : Memory) (a : Addr) (h : m.wf = true) (i : Nat)
    (hi : i < bs.length) (hlen : bs.length ≤ 2 ^ 32) :
    (m.store a bs).byte (a + BitVec.ofNat 32 i).toNat =
      match bs[i] with
      | some v => v
      | none => m.byte (a + BitVec.ofNat 32 i).toNat := by
  induction bs generalizing m a i with
  | nil => simp at hi
  | cons b bs ih =>
    simp only [List.length_cons] at hi hlen
    have shift (j : Nat) : a + BitVec.ofNat 32 (j + 1) = (a + 1) + BitVec.ofNat 32 j := by
      rw [BitVec.add_assoc]; congr 1; apply BitVec.eq_of_toNat_eq; simp [Nat.add_comm]
    have apart : a ∉ written (a + 1) bs := by
      intro hm
      obtain ⟨j, hj, e⟩ := mem_written bs (a + 1) a hm
      rw [← shift j] at e
      have e2 := congrArg BitVec.toNat e
      have := a.isLt
      simp only [BitVec.toNat_add, BitVec.toNat_ofNat] at e2
      omega
    cases i with
    | zero =>
      simp only [List.getElem_cons_zero, BitVec.add_zero]
      cases b with
      | none => exact Memory.byte_store_ne bs m (a + 1) a h apart
      | some v =>
        simp only [Memory.store]
        rw [Memory.byte_store_ne bs _ (a + 1) a (Memory.wf_set m a v h) apart, Memory.byte_set m _ _ v 0 h]
        simp
    | succ j =>
      simp only [List.getElem_cons_succ, shift j]
      cases b with
      | none => exact ih m (a + 1) h j (by omega) (by omega)
      | some v =>
        simp only [Memory.store]
        rw [ih _ (a + 1) (Memory.wf_set m a v h) j (by omega) (by omega), Memory.byte_set m _ _ v 0 h, if_neg]
        intro e
        have e2 := BitVec.eq_of_toNat_eq e
        rw [← shift j] at e2
        have e3 := congrArg BitVec.toNat e2
        have := a.isLt
        simp only [BitVec.toNat_add, BitVec.toNat_ofNat] at e3
        omega

/-! ### Outcomes -/

@[simp] theorem andThen_next {α β : Type} (a : α) (f : α → Res β) : andThen (.next a) f = f a := rfl

/-- One operation after another answers a next state only through a next value of the first. -/
theorem andThen_eq_next {α β : Type} (x : Res α) (f : α → Res β) (b : β) :
    andThen x f = .next b ↔ ∃ a, x = .next a ∧ f a = .next b := by
  cases x <;> simp [andThen]

@[simp] theorem finish_next (n : Nat) (s : State) : finish n (.next s) = .next (s.advance n) := rfl

theorem finish_eq_next (n : Nat) (r : Res State) (t : State) :
    finish n r = .next t ↔ ∃ u, r = .next u ∧ t = u.advance n := by
  rw [finish, andThen_eq_next]
  constructor
  · rintro ⟨u, h, e⟩; exact ⟨u, h, by cases e; rfl⟩
  · rintro ⟨u, h, e⟩; exact ⟨u, h, by rw [e]⟩

/-! ### The access check and the accesses -/

/-- The access check answers the state itself, and exactly when all the addresses are data addresses. -/
theorem accessCheck_eq_next (as : List Addr) (s t : State) :
    accessCheck as s = .next t ↔ t = s ∧ ∀ a ∈ as, s.inData a = true := by
  unfold accessCheck
  cases h : as.find? fun a => !s.inData a with
  | none =>
    have hn : ∀ a ∈ as, s.inData a = true := by simpa using List.find?_eq_none.mp h
    simp only [Host.Outcome.next.injEq]
    exact ⟨fun e => ⟨e.symm, hn⟩, fun e => e.1.symm⟩
  | some a =>
    simp only [reduceCtorEq, false_iff, not_and, not_forall]
    intro _
    exact ⟨a, List.mem_of_find?_eq_some h, by simpa using List.find?_some h⟩

theorem accessCheck_ok (as : List Addr) (s : State) (h : ∀ a ∈ as, s.inData a = true) :
    accessCheck as s = .next s := (accessCheck_eq_next as s s).mpr ⟨rfl, h⟩

/-- A read answers the bytes at the addresses, and exactly when all are data addresses. -/
theorem readMem_eq_next (sz : Size) (a : Addr) (s : State) (v : QWord) :
    readMem sz a s = .next v ↔ (∀ x ∈ span a sz.bytes, s.inData x = true) ∧ v = s.sizedAt sz a := by
  rw [readMem, andThen_eq_next]
  constructor
  · rintro ⟨u, h, e⟩
    obtain ⟨rfl, h2⟩ := (accessCheck_eq_next _ _ _).mp h
    exact ⟨h2, by cases e; rfl⟩
  · rintro ⟨h, e⟩
    exact ⟨s, accessCheck_ok _ _ h, by rw [e]⟩

/-- A store answers a next state exactly when no selected byte is program text and all are data addresses; then
only memory changes. -/
theorem storeBytes_eq_next (a : Addr) (bs : List (Option Byte)) (s t : State) :
    storeBytes a bs s = .next t ↔
      (∀ x ∈ written a bs, s.inText x = false) ∧ (∀ x ∈ written a bs, s.inData x = true) ∧
        t = s.setMem (s.mem.store a bs) := by
  unfold storeBytes
  cases h : (written a bs).find? s.inText with
  | some x =>
    simp only [reduceCtorEq, false_iff, not_and]
    intro hn
    have := hn x (List.mem_of_find?_eq_some h)
    rw [List.find?_some h] at this
    cases this
  | none =>
    have hn : ∀ x ∈ written a bs, s.inText x = false := by simpa using List.find?_eq_none.mp h
    simp only [andThen_eq_next, accessCheck_eq_next]
    constructor
    · rintro ⟨u, ⟨rfl, h2⟩, e⟩
      exact ⟨hn, h2, by cases e; rfl⟩
    · rintro ⟨_, h2, e⟩
      exact ⟨s, ⟨rfl, h2⟩, by rw [e]⟩

/-- The addresses of a whole row are those of its span. -/
theorem written_map_some (bs : List Byte) (a : Addr) : written a (bs.map some) = span a bs.length := by
  induction bs generalizing a with
  | nil => rfl
  | cons b bs ih =>
    simp only [List.map_cons, written, List.length_cons, span, List.range_succ_eq_map, List.map_map]
    rw [ih]
    simp only [span, List.cons.injEq, BitVec.ofNat_eq_ofNat, BitVec.add_zero, true_and, List.map_inj_left,
      Function.comp_apply]
    intro i _
    rw [BitVec.add_assoc]
    congr 1
    apply BitVec.eq_of_toNat_eq
    simp [Nat.add_comm]

@[simp] theorem bytesOf_length (sz : Size) (v : QWord) : (bytesOf sz v).length = sz.bytes := by cases sz <;> rfl

/-- A sized store answers a next state exactly when its span is data and no program text. -/
theorem writeMem_eq_next (sz : Size) (a : Addr) (v : QWord) (s t : State) :
    writeMem sz a v s = .next t ↔
      (∀ x ∈ span a sz.bytes, s.inText x = false) ∧ (∀ x ∈ span a sz.bytes, s.inData x = true) ∧
        t = s.setMem (s.mem.store a ((bytesOf sz v).map some)) := by
  rw [writeMem, storeBytes_eq_next, written_map_some, bytesOf_length]

/-- A byte of the machine's memory after a store, outside the addresses written. -/
theorem byteAt_store_ne (s : State) (a x : Addr) (bs : List (Option Byte)) (h : s.mem.wf = true)
    (hx : x ∉ written a bs) : (s.setMem (s.mem.store a bs)).byteAt x = s.byteAt x :=
  Memory.byte_store_ne bs s.mem a x h hx

end Sys2Proof.Machine
end

