-- ==== Sys2Proof/Laws/Operands.lean ====
section
/-!
SUPPORT. Operands: what forming an address changes, and what reading or writing a location answers; one lemma
for each operation that says all it can do (rules R92 to R98, R223).
-/

namespace Sys2Proof.Machine

/-! ### Frames compose -/

theorem Frame.refl (regs : List RegName) (addrs : List Addr) (s : State) : Frame regs addrs s s :=
  ⟨fun _ _ => rfl, fun _ _ => rfl, rfl, rfl, rfl, rfl, rfl, rfl, rfl, rfl⟩

theorem Frame.trans {r1 r2 : List RegName} {a1 a2 : List Addr} {s t u : State} (h : Frame r1 a1 s t)
    (k : Frame r2 a2 t u) : Frame (r1 ++ r2) (a1 ++ a2) s u where
  reg r hr := by
    simp only [List.mem_append, not_or] at hr
    rw [k.reg r hr.2, h.reg r hr.1]
  byte a ha := by
    simp only [List.mem_append, not_or] at ha
    rw [k.byte a ha.2, h.byte a ha.1]
  usp := k.usp.trans h.usp
  fpr := k.fpr.trans h.fpr
  fpcc := k.fpcc.trans h.fpcc
  pcr := k.pcr.trans h.pcr
  counters := k.counters.trans h.counters
  text := k.text.trans h.text
  regions := k.regions.trans h.regions
  cfg := k.cfg.trans h.cfg

/-- A frame may name more. -/
theorem Frame.mono {r1 r2 : List RegName} {a1 a2 : List Addr} {s t : State} (h : Frame r1 a1 s t)
    (hr : ∀ r ∈ r1, r ∈ r2) (ha : ∀ a ∈ a1, a ∈ a2) : Frame r2 a2 s t :=
  { h with
    reg := fun r hn => h.reg r fun hm => hn (hr r hm)
    byte := fun a hn => h.byte a fun hm => hn (ha a hm) }

/-- Writes of `pc` and SR are in no frame. -/
theorem Frame.advance {r : List RegName} {a : List Addr} {s t : State} (h : Frame r a s t) (n : Nat) :
    Frame r a s (t.advance n) := ⟨h.reg, h.byte, h.usp, h.fpr, h.fpcc, h.pcr, h.counters, h.text, h.regions, h.cfg⟩

theorem Frame.setPc {r : List RegName} {a : List Addr} {s t : State} (h : Frame r a s t) (x : Addr) :
    Frame r a s (t.setPc x) := ⟨h.reg, h.byte, h.usp, h.fpr, h.fpcc, h.pcr, h.counters, h.text, h.regions, h.cfg⟩

theorem Frame.setSr {r : List RegName} {a : List Addr} {s t : State} (h : Frame r a s t) (f : StatusReg) :
    Frame r a s (t.setSr f) := ⟨h.reg, h.byte, h.usp, h.fpr, h.fpcc, h.pcr, h.counters, h.text, h.regions, h.cfg⟩

/-! ### Register writes -/

theorem frame_setLong (s : State) (r : RegName) (v : Long) : Frame [r] [] s (s.setLong r v) where
  reg x hx := State.reg_setLong_ne s r x v (by simpa using hx)
  byte a _ := by simp
  usp := by simp
  fpr := by simp
  fpcc := by simp
  pcr := by simp
  counters := by simp
  text := by simp
  regions := by simp
  cfg := by simp

theorem frame_setQuad (s : State) (r : RegName) (v : QWord) : Frame [r] [] s (s.setQuad r v) where
  reg x hx := State.reg_setQuad_ne s r x v (by simpa using hx)
  byte a _ := by simp
  usp := by simp
  fpr := by simp
  fpcc := by simp
  pcr := by simp
  counters := by simp
  text := by simp
  regions := by simp
  cfg := by simp

theorem frame_setPart (s : State) (sz : Size) (r : RegName) (v : QWord) : Frame [r] [] s (s.setPart sz r v) := by
  cases sz <;> first | exact frame_setLong .. | exact frame_setQuad ..

theorem frame_setHigh (s : State) (r : RegName) (v : Word) : Frame [r] [] s (s.setHigh r v) := frame_setLong ..

/-- A store changes the bytes written and nothing else. -/
theorem frame_store (s : State) (a : Addr) (bs : List (Option Byte)) (h : s.mem.wf = true) :
    Frame [] (written a bs) s (s.setMem (s.mem.store a bs)) :=
  ⟨fun _ _ => rfl, fun x hx => byteAt_store_ne s a x bs h hx, rfl, rfl, rfl, rfl, rfl, rfl, rfl, rfl⟩

/-! ### Forming an address -/

/-- Forming an `<ea>` changes at most the address register its mode steps. -/
theorem locate_frame (sz : Size) (ext : Addr) (xx : BitVec 2) (ea : Ea) (s : State) :
    Frame (steppedEa ea) [] s (locate sz ext xx ea s).st := by
  cases ea <;> first | exact Frame.refl .. | exact frame_setLong ..

@[simp] theorem locate_pc (sz : Size) (ext : Addr) (xx : BitVec 2) (ea : Ea) (s : State) :
    (locate sz ext xx ea s).st.pc = s.pc := by cases ea <;> simp [locate]

@[simp] theorem locate_sr (sz : Size) (ext : Addr) (xx : BitVec 2) (ea : Ea) (s : State) :
    (locate sz ext xx ea s).st.sr = s.sr := by cases ea <;> simp [locate]

@[simp] theorem locate_mem (sz : Size) (ext : Addr) (xx : BitVec 2) (ea : Ea) (s : State) :
    (locate sz ext xx ea s).st.mem = s.mem := by cases ea <;> simp [locate]

/-- Forming a `<vea>` changes at most the address register its mode steps. -/
theorem locateVea_frame (ext : Addr) (vea : Vea) (s : State) :
    Frame (steppedVea vea) [] s (locateVea ext vea s).st := by
  cases vea <;> first | exact Frame.refl .. | exact frame_setLong ..

@[simp] theorem locateVea_pc (ext : Addr) (vea : Vea) (s : State) : (locateVea ext vea s).st.pc = s.pc := by
  cases vea <;> simp [locateVea]

@[simp] theorem locateVea_sr (ext : Addr) (vea : Vea) (s : State) : (locateVea ext vea s).st.sr = s.sr := by
  cases vea <;> simp [locateVea]

@[simp] theorem locateVea_mem (ext : Addr) (vea : Vea) (s : State) : (locateVea ext vea s).st.mem = s.mem := by
  cases vea <;> simp [locateVea]

/-- What a location that is no stepped register holds depends on nothing a frame of stepped registers lets
change. -/
theorem value_congr (sz : Size) (l : Loc) (s t : State) (hm : t.mem = s.mem)
    (hr : ∀ r ∈ l.regs, t.reg r = s.reg r) : l.value sz t = l.value sz s := by
  cases l with
  | reg r => simp only [Loc.value, State.quad]; rw [hr r (by simp [Loc.regs])]
  | mem a => simp only [Loc.value, State.sizedAt, State.quadAt, State.longAt, State.wordAt, State.byteAt, hm]
  | imm v => rfl

/-- Forming an `<ea>` leaves what its location holds. -/
theorem locate_value (sz : Size) (ext : Addr) (xx : BitVec 2) (ea : Ea) (s : State) :
    (locate sz ext xx ea s).loc.value sz (locate sz ext xx ea s).st = (locate sz ext xx ea s).loc.value sz s := by
  refine value_congr _ _ _ _ (locate_mem ..) fun r hr => ?_
  cases ea <;> first | rfl | cases hr

/-- Forming a `<vea>` leaves what its location holds. -/
theorem locateVea_value (ext : Addr) (vea : Vea) (s : State) (sz : Size) :
    (locateVea ext vea s).loc.value sz (locateVea ext vea s).st = (locateVea ext vea s).loc.value sz s := by
  refine value_congr _ _ _ _ (locateVea_mem ..) fun r hr => ?_
  cases vea <;> first | rfl | cases hr

/-! ### Reading a location -/

theorem inData_congr {s t : State} (h : t.regions = s.regions) (a : Addr) : t.inData a = s.inData a := by
  unfold State.inData; rw [h]

theorem inText_congr {s t : State} (h : t.text = s.text) (a : Addr) : t.inText a = s.inText a := by
  unfold State.inText; rw [h]

/-- Reading a location answers what it holds, and exactly when its addresses are data addresses. -/
theorem readLoc_eq_next (sz : Size) (l : Located) (v : QWord) :
    readLoc sz l = .next v ↔ Readable (l.loc.addrs sz) l.st ∧ v = l.loc.value sz l.st := by
  unfold readLoc Readable
  cases l.loc with
  | reg r => exact ⟨fun h => ⟨fun _ h => (by cases h), by cases h; rfl⟩, fun h => by rw [h.2]; rfl⟩
  | mem a => exact readMem_eq_next sz a l.st v
  | imm w => exact ⟨fun h => ⟨fun _ h => (by cases h), by cases h; rfl⟩, fun h => by rw [h.2]; rfl⟩

/-- Reading an `<ea>` whose addresses are data addresses. -/
theorem readLoc_locate (sz : Size) (ext : Addr) (xx : BitVec 2) (ea : Ea) (s : State)
    (h : Readable ((locate sz ext xx ea s).loc.addrs sz) s) :
    readLoc sz (locate sz ext xx ea s) = .next ((locate sz ext xx ea s).loc.value sz s) := by
  rw [readLoc_eq_next, locate_value]
  exact ⟨fun a ha => by rw [inData_congr (locate_frame sz ext xx ea s).regions]; exact h a ha, rfl⟩

/-- Reading a `<vea>` whose addresses are data addresses. -/
theorem readLoc_locateVea (ext : Addr) (vea : Vea) (s : State)
    (h : Readable ((locateVea ext vea s).loc.addrs .q) s) :
    readLoc .q (locateVea ext vea s) = .next ((locateVea ext vea s).loc.value .q s) := by
  rw [readLoc_eq_next, locateVea_value]
  exact ⟨fun a ha => by rw [inData_congr (locateVea_frame ext vea s).regions]; exact h a ha, rfl⟩

/-! ### Writing a location -/

/-- The low bytes of a register after a write of them. -/
theorem lowBytes_setPart (sz : Size) (s : State) (r : RegName) (v : QWord) :
    lowBytes sz ((s.setPart sz r v).quad r) = lowBytes sz v := by
  cases sz with
  | q => simp [State.setPart, lowBytes]
  | b =>
    simp only [State.setPart, State.setLong, State.quad, State.reg_setReg_self, Reg64.quad, lowBytes, mergeLow]
    congr 1
    apply BitVec.eq_of_getLsbD_eq
    intro i hi
    simp only [BitVec.getLsbD_extractLsb', BitVec.getLsbD_append, hi, decide_true, Bool.true_and]
    simp [show i < 32 by omega, hi]
  | w =>
    simp only [State.setPart, State.setLong, State.quad, State.reg_setReg_self, Reg64.quad, lowBytes, mergeLow]
    congr 1
    apply BitVec.eq_of_getLsbD_eq
    intro i hi
    simp only [BitVec.getLsbD_extractLsb', BitVec.getLsbD_append, hi, decide_true, Bool.true_and]
    simp [show i < 32 by omega, hi]
  | l =>
    simp only [State.setPart, State.setLong, State.quad, State.reg_setReg_self, Reg64.quad, lowBytes, mergeLow]
    congr 1
    apply BitVec.eq_of_getLsbD_eq
    intro i hi
    simp only [BitVec.getLsbD_extractLsb', BitVec.getLsbD_append, hi, decide_true, Bool.true_and]
    simp [hi]

/-- A byte of a row just stored. -/
theorem byteAt_store (s : State) (a : Addr) (bs : List Byte) (h : s.mem.wf = true) (i : Nat) (hi : i < bs.length)
    (hlen : bs.length ≤ 2 ^ 32) :
    (s.setMem (s.mem.store a (bs.map some))).byteAt (a + BitVec.ofNat 32 i) = bs[i] := by
  have := Memory.byte_store (bs.map some) s.mem a h i (by simpa using hi) (by simpa using hlen)
  simp only [List.getElem_map] at this
  exact this

/-- Adjacent slices of a value make one slice. -/
theorem glue {w : Nat} (v : BitVec w) (k m n : Nat) :
    v.extractLsb' (k + n) m ++ v.extractLsb' k n = v.extractLsb' k (m + n) := by
  apply BitVec.eq_of_getLsbD_eq
  intro i hi
  simp only [BitVec.getLsbD_append, BitVec.getLsbD_extractLsb']
  by_cases c : i < n
  · simp [c, hi]
  · simp [c, hi, show i - n < m by omega, show k + n + (i - n) = k + i by omega]

theorem wordAt_of_bytes (s : State) (a : Addr) (v : QWord) (k : Nat)
    (h0 : s.byteAt a = v.extractLsb' (k + 8) 8) (h1 : s.byteAt (a + 1) = v.extractLsb' k 8) :
    s.wordAt a = v.extractLsb' k 16 := by
  rw [State.wordAt, h0, h1]
  exact glue v k 8 8

theorem longAt_of_words (s : State) (a : Addr) (v : QWord) (k : Nat)
    (h0 : s.wordAt a = v.extractLsb' (k + 16) 16) (h1 : s.wordAt (a + 2) = v.extractLsb' k 16) :
    s.longAt a = v.extractLsb' k 32 := by
  rw [State.longAt, h0, h1]
  exact glue v k 16 16

/-- A sized store reads back. -/
theorem sizedAt_store (sz : Size) (s : State) (a : Addr) (v : QWord) (h : s.mem.wf = true) :
    (s.setMem (s.mem.store a ((bytesOf sz v).map some))).sizedAt sz a = lowBytes sz v := by
  have get (i : Nat) (hi : i < sz.bytes) :
      (s.setMem (s.mem.store a ((bytesOf sz v).map some))).byteAt (a + BitVec.ofNat 32 i) =
        (bytesOf sz v)[i]'(by rw [bytesOf_length]; exact hi) :=
    byteAt_store s a (bytesOf sz v) h i (by rw [bytesOf_length]; exact hi)
      (by rw [bytesOf_length]; cases sz <;> decide)
  generalize s.setMem (s.mem.store a ((bytesOf sz v).map some)) = t at get ⊢
  have z : a + BitVec.ofNat 32 0 = a := by simp
  have at' (i j k : Nat) (hk : i + j = k) : a + BitVec.ofNat 32 i + BitVec.ofNat 32 j = a + BitVec.ofNat 32 k := by
    rw [BitVec.add_assoc, ← BitVec.ofNat_add, hk]
  cases sz with
  | b =>
    have h0 := get 0 (by decide)
    rw [z] at h0
    simp only [State.sizedAt, h0, lowBytes]
    rfl
  | w =>
    have h0 := get 0 (by decide)
    rw [z] at h0
    simp only [State.sizedAt, wordAt_of_bytes t a v 0 h0 (get 1 (by decide)), lowBytes]
  | l =>
    have h0 := get 0 (by decide)
    rw [z] at h0
    have w0 := wordAt_of_bytes t a v 16 h0 (get 1 (by decide))
    have w1 := wordAt_of_bytes t (a + 2) v 0 (get 2 (by decide)) ((congrArg t.byteAt (at' 2 1 3 rfl)).trans (get 3 (by decide)))
    simp only [State.sizedAt, longAt_of_words t a v 0 w0 w1, lowBytes]
  | q =>
    have h0 := get 0 (by decide)
    rw [z] at h0
    have w0 := wordAt_of_bytes t a v 48 h0 (get 1 (by decide))
    have w1 := wordAt_of_bytes t (a + 2) v 32 (get 2 (by decide)) ((congrArg t.byteAt (at' 2 1 3 rfl)).trans (get 3 (by decide)))
    have w2 := wordAt_of_bytes t (a + 4) v 16 (get 4 (by decide)) ((congrArg t.byteAt (at' 4 1 5 rfl)).trans (get 5 (by decide)))
    have w3 := wordAt_of_bytes t (a + 4 + 2) v 0 ((congrArg t.byteAt (at' 4 2 6 rfl)).trans (get 6 (by decide)))
      ((congrArg t.byteAt ((congrArg (· + 1) (at' 4 2 6 rfl)).trans (at' 6 1 7 rfl))).trans (get 7 (by decide)))
    have l0 := longAt_of_words t a v 32 w0 w1
    have l1 := longAt_of_words t (a + 4) v 0 w2 w3
    simp only [State.sizedAt, State.quadAt, lowBytes]
    rw [l0, l1, show v.extractLsb' 32 32 = v.extractLsb' (0 + 32) 32 from rfl, glue v 0 32 32]
    exact BitVec.extractLsb'_eq_self

/-- Writing a location: it is no immediate and its addresses may be written; then it holds the low bytes of the
value, and nothing else changes. -/
theorem writeLoc_ok (sz : Size) (l : Located) (v : QWord) (h : l.st.mem.wf = true) (hi : ∀ w, l.loc ≠ .imm w)
    (hw : Writable (l.loc.addrs sz) l.st) :
    ∃ t, writeLoc sz l v = .next t ∧ l.loc.value sz t = lowBytes sz v ∧ t.sr = l.st.sr ∧ t.pc = l.st.pc ∧
      Frame l.loc.regs (l.loc.addrs sz) l.st t := by
  obtain ⟨loc, st⟩ := l
  cases loc with
  | reg r =>
    exact ⟨_, rfl, lowBytes_setPart sz st r v, by simp, by simp, frame_setPart ..⟩
  | mem a =>
    refine ⟨_, (writeMem_eq_next sz a v st _).mpr ⟨fun x hx => (hw x hx).2, fun x hx => (hw x hx).1, rfl⟩,
      sizedAt_store sz st a v h, rfl, rfl, ?_⟩
    have := frame_store st a ((bytesOf sz v).map some) h
    rwa [written_map_some, bytesOf_length] at this
  | imm w => exact absurd rfl (hi w)

/-- Writing a location that answers a next state: SR, `pc` and the canonical form stay. -/
theorem writeLoc_eq_next (sz : Size) (l : Located) (v : QWord) (t : State) (h : writeLoc sz l v = .next t) :
    (∀ w, l.loc ≠ .imm w) ∧ Writable (l.loc.addrs sz) l.st ∧
      ((∃ r, l.loc = .reg r ∧ t = l.st.setPart sz r v) ∨
        ∃ a, l.loc = .mem a ∧ t = l.st.setMem (l.st.mem.store a ((bytesOf sz v).map some))) := by
  obtain ⟨loc, st⟩ := l
  cases loc with
  | reg r =>
    cases h
    exact ⟨by simp, by simp [Loc.addrs, Writable], .inl ⟨r, rfl, rfl⟩⟩
  | mem a =>
    obtain ⟨h1, h2, e⟩ := (writeMem_eq_next sz a v st t).mp h
    exact ⟨by simp, fun x hx => ⟨h2 x hx, h1 x hx⟩, .inr ⟨a, rfl, e⟩⟩
  | imm w => cases h

end Sys2Proof.Machine
end

