-- ==== Sys2Proof/Tests/Slice0.lean ====
section
/-!
SUPPORT. The model's own tests: the refusals of WellFormed, decoding of words written out from the encodings
of the spec, single steps against the worked examples and vectors of 95_test_vectors.md (named by their ids),
and states that meet the hypotheses of the statements for the provers.
-/

namespace Sys2Proof.Tests

open Sys2Proof Sys2Proof.Machine

/-! ### WellFormed: one ill-formed term for each check -/

theorem test_refuses_operand_forms :
    ([.addiw 0 (.an 0), .addiw 0 (.pcDisp 0), .cmpiw 0 (.imm 0), .clrQ (.imm 0), .clrB (.an 1), .clrW (.pcIndex ⟨false, 0, false, 0, 0⟩),
      .clrL (.pcDisp 0), .leaEaBn (.postinc 0) 0, .leaEaBn (.dn 0) 0, .mov3q 1 (.an 0), .moveBnEa 0 (.imm 0),
      .moveaEaBn (.imm 0x100000000) 0, .moveSrEa (.an 0), .moveh false 0 (.predec 0), .moveh true 0 (.pcDisp 0),
      .movex .l true 0 (.pcDisp 0), .movex .l false 0 (.imm 0), .moviw 0 (.imm 0), .movs .b (.an 0) 0,
      .movz .w (.an 0) 0, .movz2 .b 0 1 (.postinc 0), .move2 .l true 0 1 (.pcDisp 0), .store 0 (.immW 0),
      .storei 0 (.immQ 0), .storec 0 0 (.immW 0), .storeilm 0 0 (.immW 0), .storem 0 0 (.immQ 0),
      .pack3216 0 0 (.immW 0), .packuswb 0 0 (.immQ 0), .fmoveEaFp .l .default (.an 0) 0,
      .fmoveFpEa .d 0 (.imm 0), .fmoverz .l 0 (.pcDisp 0), .fmoveurz .b 0 (.an 0)] : List Instr).all
      (fun i => i.complaint .default == some .operandForm) = true := by decide

/-- Rule R93: "A pc-relative destination is refused everywhere"; as a source it is admitted. -/
theorem test_refuses_pc_relative_vea_destinations :
    ([.store 0 (.pcDisp 0), .storei 0 (.pcDisp 0), .storec 0 0 (.pcDisp 0), .storeilm 0 0 (.pcDisp 0),
      .storem 0 0 (.pcDisp 0), .pack3216 0 0 (.pcDisp 0), .packuswb 0 0 (.pcDisp 0),
      .store 0 (.pcIndex ⟨false, 0, true, 0, 0⟩), .storem 0 0 (.pcIndex ⟨false, 0, true, 0, 0⟩)] : List Instr).all
      (fun i => i.complaint .default == some .operandForm) = true ∧
    (Instr.storem3 0 0 0 (.pcDisp 0)).complaint { Config.default with storem3Opcode := some 0x3F } = some .operandForm ∧
    (Instr.load (.pcDisp 0) 0).wellFormed .default = true := by decide

theorem test_refuses_sizes :
    ([.move2 .q false 0 1 (.ind 0), .movex .b false 0 (.ind 0), .movz2 .l 0 1 (.ind 0), .movs .l (.dn 0) 0,
      .movz .q (.dn 0) 0] : List Instr).all (fun i => i.complaint .default == some .sizeField) = true := by decide

theorem test_refuses_registers :
    (Instr.move2 .w false 8 1 (.ind 0)).complaint .default = some .partialAddress ∧
    (Instr.move2 .l false 2 2 (.ind 0)).complaint .default = some .sameRegister ∧
    (Instr.movz2 .w 3 3 (.ind 0)).complaint .default = some .sameRegister ∧
    (Instr.movex .w false 9 (.ind 0)).complaint .default = some .partialAddress ∧
    (Instr.movex .w true 1 (.an 0)).complaint .default = some .partialAddress ∧
    ([.bflyb (.reg 0) 0 3, .bflyw (.reg 0) 0 31, .transhi 0 1, .translo 0 7, .unpack1632 (.reg 0) 3] : List Instr).all
      (fun i => i.complaint .default == some .pairOdd) = true := by decide

theorem test_refuses_even_displacements :
    (Instr.dbccL 1 1 0xFFFA).complaint .default = some .noRow ∧
    (Instr.fdbccL 1 1 0xFFFA).complaint .default = some .noRow := by decide

theorem test_refuses_by_parameter :
    (Instr.move2Old .l false 0 (.ind 0)).complaint .default = some .parameter ∧
    (Instr.move2 .l false 1 0 (.ind 0)).complaint { Config.default with move2Old := true } = some .parameter ∧
    (Instr.move2Old .l false 1 (.ind 0)).complaint { Config.default with move2Old := true } = some .pairOdd ∧
    (Instr.move2Old .q false 0 (.ind 0)).complaint { Config.default with move2Old := true } = some .sizeField ∧
    (Instr.storem3 0 0 0 (.reg 0)).complaint .default = some .parameter ∧
    (Instr.storem3 0 0 0 (.reg 0)).complaint { Config.default with storem3Opcode := some 0x25 } = some .parameter ∧
    (Instr.storem3 0 0 0 (.immW 0)).complaint { Config.default with storem3Opcode := some 0x3F } = some .operandForm ∧
    (Instr.move16AnAbs 0 0).complaint .default = some .conflicted ∧
    (Instr.touchAn 0).complaint .default = some .conflicted := by decide

theorem test_refuses_float_formats :
    (Instr.fmoverz .s 0 (.dn 0)).complaint .default = some .fpFormat ∧
    (Instr.fmoveurz .d 0 (.dn 0)).complaint .default = some .fpFormat := by decide

/-- V68, V69 and the rest of rule R140: what a bundle refuses. -/
theorem test_refuses_bundles :
    (Instr.bank ⟨0, 0, 0, 0, 1⟩ (.moviw 7 (.dn 0))).complaint .default = some .bundle ∧
    (Instr.bank ⟨0, 0, 0, 1, 1⟩ (.bank ⟨0, 0, 0, 1, 1⟩ (.clrL (.dn 0)))).complaint .default = some .bundle ∧
    (Instr.bank ⟨0, 0, 0, 1, 1⟩ (.bra 4)).complaint .default = some .bundle ∧
    (Instr.bank ⟨0, 0, 0, 1, 1⟩ (.clrL (.ind 0))).complaint .default = some .bankedAddressMode ∧
    (Instr.bank ⟨0, 0, 0, 2, 1⟩ (.moveBnEa 0 (.dn 0))).complaint .default = some .bundle ∧
    (Instr.bank ⟨0, 0, 0, 1, 2⟩ (.moveaEaBn (.dn 0) 0)).complaint .default = some .bundle ∧
    (Instr.bank ⟨6, 1, 1, 0, 0⟩ (.clrL (.dn 0))).complaint .default = some .thirdOperand ∧
    (Instr.bank ⟨0, 1, 0, 0, 0⟩ (.clrL (.dn 0))).complaint { Config.default with bankCheckSs := true } =
      some .bundleLength ∧
    (Instr.floadi ⟨1, 0, 0, 0, 0⟩ .d .default 0 0).complaint .default = some .thirdOperand ∧
    (Instr.fstorei ⟨0, 0, 1, 0, 0⟩ .d 0 0).complaint .default = some .thirdOperand := by decide

theorem test_admits_bundles :
    ([.bank ⟨0, 1, 0, 1, 1⟩ (.moviw 7 (.dn 0)), .bank ⟨0, 0, 0, 1, 0⟩ (.moveaEaBn (.dn 0) 3),
      .bank ⟨0, 0, 0, 0, 0⟩ (.clrL (.ind 0)), .bank ⟨0, 1, 0, 0, 1⟩ (.perm 8 1 3 3 2 5),
      .bank ⟨0, 1, 0, 3, 1⟩ (.fmoverz .l 0 (.dn 0)), .floadi ⟨0, 1, 0, 1, 2⟩ .d .default 2 0] : List Instr).all
      (fun i => i.wellFormed .default && i.wellFormed { Config.default with bankCheckSs := true }) = true := by decide

/-! ### Decoding: words written out from the encoding line of each instruction's rule -/

/-- The words decode, all of them, to the instruction. -/
def decodes (cfg : Config) (ws : List Word) (i : Instr) : Bool := decode cfg ws == .ok i []

/-- The words are refused for the reason. -/
def refusesWords (cfg : Config) (ws : List Word) (r : Reject) : Bool := decode cfg ws == .reject r

/-- Rules R131, R132, R148, R149, R152, R153, R155, R156, R210 and 95_test_vectors.md V1 to V19. -/
theorem test_decode_arithmetic :
    ([([0x06C0, 0x8001], .addiw 0x8001 (.dn 0)), ([0x5009], .addqBn 0 1), ([0x5309], .subqBn 1 1),
      ([0xAE00], .clrQ (.dn 0)), ([0x4200], .clrB (.dn 0)), ([0x4258], .clrW (.postinc 0)), ([0x4280], .clrL (.dn 0)),
      ([0xC181], .cmpBnDn 1 0), ([0x4E03, 0x4567], .cmpiw 0x4567 (.dn 3)), ([0x4BC0], .extub 0), ([0x4DC1], .extuw 1),
      ([0x4368, 0x0001], .leaEaBn (.disp 0 1) 1), ([0x43C9], .leaBnAn 1 1),
      ([0x4CC8, 0x16D5], .perm 8 1 3 3 2 5)] : List (List Word × Instr)).all
      (fun e => decodes .default e.1 e.2) = true := by decide

/-- Rules R141 to R145 and R150, the condition codes of rule R34. -/
theorem test_decode_branches :
    ([([0x6201], .bhi 1), ([0x6301], .bls 1), ([0x6401], .bcc 1), ([0x6501], .bcs 1), ([0x6601], .bne 1),
      ([0x6701], .beq 1), ([0x6801], .bvc 1), ([0x6901], .bvs 1), ([0x6A01], .bpl 1), ([0x6B01], .bmi 1),
      ([0x6C01], .bge 1), ([0x6D01], .blt 1), ([0x6E01], .bgt 1), ([0x6F01], .ble 1), ([0x60FD], .bra 0xFD),
      ([0x6103], .bsr 3), ([0x51C9, 0xFFFB], .dbccL 1 1 0xFFFB),
      ([0xF249, 0x000E, 0xFFF9], .fdbccL 0x0E 1 0xFFF9)] : List (List Word × Instr)).all
      (fun e => decodes .default e.1 e.2) = true := by decide

/-- Rules R170 to R205 and 95_test_vectors.md V33 to V60. -/
theorem test_decode_moves :
    ([([0xAE40], .mov3q 7 (.dn 0)), ([0x1009], .moveBnEa 1 (.dn 0)), ([0x1248], .moveaEaBn (.an 0) 1),
      ([0x127C, 0x0000, 0x2000], .moveaEaBn (.imm 0x2000) 1), ([0x40C0], .moveSrEa (.dn 0)),
      ([0x007C, 0x0800], .oriSr 0x0800), ([0x027C, 0xF7FF], .andiSr 0xF7FF),
      ([0x4E7A, 0x0808], .movecRcRn 0 0x808), ([0x4E7B, 0x0808], .movecRnRc 0 0x808),
      ([0x0E50, 0x20D1], .move2 .w false 2 3 (.ind 0)), ([0x0E50, 0x3013], .moveh false 3 (.ind 0)),
      ([0x0E88, 0x9010], .movex .l false 9 (.an 0)), ([0xA200, 0x8123], .moviw 0x8123 (.dn 0)),
      ([0xA300], .movs .b (.dn 0) 1), ([0xA340], .movs .w (.dn 0) 1), ([0xA380], .movz .b (.dn 0) 1),
      ([0xA3C0], .movz .w (.dn 0) 1), ([0x0E50, 0x20D2], .movz2 .w 2 3 (.ind 0))] : List (List Word × Instr)).all
      (fun e => decodes .default e.1 e.2) = true ∧
    decodes { Config.default with move2Old := true } [0x0E90, 0x2011] (.move2Old .l false 2 (.ind 0)) = true := by
  decide

/-- Rules R186, R187 and R212; `$F610` as `F610_IS` says. -/
theorem test_decode_transfers :
    ([([0xF620, 0x9000], .move16PiPi 0 1), ([0xF602, 0x0000, 0x3000], .move16PiAbs 2 0x3000),
      ([0xF608, 0x0000, 0x3000], .move16AbsPi 0x3000 0), ([0xF61B, 0x0001, 0x3000], .move16AbsAn 0x13000 3),
      ([0xF631, 0x1C20], .touchIndex 1 (.brief ⟨false, 1, true, 2, 0x20⟩)),
      ([0xF631, 0x1D20, 0x1770], .touchIndex 1 (.full ⟨false, 1, true, 2, false, false, .word 0x1770, .none⟩))] :
        List (List Word × Instr)).all (fun e => decodes .default e.1 e.2) = true ∧
    decodes { Config.default with f610Is := .move16 } [0xF610, 0x0000, 0x3000] (.move16AnAbs 0 0x3000) = true ∧
    decodes { Config.default with f610Is := .touch } [0xF610] (.touchAn 0) = true ∧
    refusesWords .default [0xF610, 0x0000, 0x3000] .conflicted = true := by decide

/-- The three-operand AMMX instructions by their opcode bytes, `<vea>` = d0, b = d1, d = d2 (V72 to V107). -/
theorem test_decode_class_l :
    ([(0x1210, .paddb), (0x1211, .paddw), (0x1212, .psubb), (0x1213, .psubw), (0x1214, .paddusb), (0x1215, .paddusw),
      (0x1216, .psubusb), (0x1217, .psubusw), (0x1220, .pcmpeqb), (0x1221, .pcmpeqw), (0x1222, .pcmphib),
      (0x1223, .pcmphiw), (0x122C, .pcmpgeb), (0x122D, .pcmpgew), (0x122E, .pcmpgtb), (0x122F, .pcmpgtw),
      (0x1230, .pminsb), (0x1231, .pminsw), (0x1232, .pminub), (0x1233, .pminuw), (0x1234, .pmaxsb),
      (0x1235, .pmaxsw), (0x1236, .pmaxub), (0x1237, .pmaxuw), (0x1218, .pmul88), (0x1219, .pmula),
      (0x121A, .pmulh), (0x121B, .pmull), (0x120C, .pavgb), (0x1208, .pand), (0x1209, .por), (0x120A, .peor),
      (0x120B, .pandn), (0x1238, .lslq), (0x1239, .lsrq), (0x1229, .bsel), (0x121C, .bflyb),
      (0x121D, .bflyw)] : List (Word × (Vea → Reg5 → Reg5 → Instr))).all
      (fun e => decodes .default [0xFE00, e.1] (e.2 (.reg 0) 1 2)) = true := by decide

/-- The other AMMX instructions, with the register extension bits A, B, D and B registers as bases (V108 to V135). -/
theorem test_decode_ammx :
    ([([0xFE00, 0x0128], .c2p (.reg 0) 1), ([0xFE10, 0x0801], .load (.ind (.a 0)) 8),
      ([0xFE3C, 0x0201, 0x0011, 0x2233, 0x4455, 0x6677], .load (.immQ 0x0011223344556677) 2),
      ([0xFE10, 0x1101], .loadi (.ind (.a 0)) 1), ([0xFF11, 0x8004], .store 8 (.ind (.b 1))),
      ([0xFE23, 0x1004], .store 1 (.predec (.a 3))), ([0xFE12, 0x0124], .storec 0 1 (.ind (.a 2))),
      ([0xFE11, 0x0104], .storei 0 (.ind (.a 1))), ([0xFE12, 0x0105], .storeilm 0 1 (.ind (.a 2))),
      ([0xFED2, 0x2325], .storem 18 19 (.ind (.a 2))), ([0xFE12, 0x0106], .packuswb 0 1 (.ind (.a 2))),
      ([0xFE0A, 0x0107], .pack3216 0 1 (.reg 10)), ([0xFE00, 0x021E], .unpack1632 (.reg 0) 2),
      ([0xFE10, 0x9E1C], .bflyb (.ind (.a 0)) 9 14), ([0xFE00, 0x0602], .transhi 0 6), ([0xFE00, 0x0603], .translo 0 6),
      ([0xFE00, 0x062A], .minterm 0 6), ([0xFE3F, 0x9E00, 0x3210, 0xAB78], .vperm 0 9 14 0x3210AB78),
      ([0xFE31, 0x203E, 0xB800], .tex 1 2 3 0 0 false 0 0),
      ([0xFE31, 0x203E, 0xB050], .texB 1 2 3 0 5)] : List (List Word × Instr)).all
      (fun e => decodes .default e.1 e.2) = true ∧
    decodes { Config.default with storem3Opcode := some 0x3F } [0xFE10, 0x033F] (.storem3 0 3 0 (.ind (.a 0))) = true := by
  decide

/-- The floating-point moves and the bundles (V66, V67, V71, V138 to V148). -/
theorem test_decode_float_and_bank :
    ([([0xF200, 0x5480], .fmoveEaFp .d .default (.dn 0) 1), ([0xF200, 0x4400], .fmoveEaFp .s .default (.dn 0) 0),
      ([0xF201, 0x4040], .fmoveEaFp .l .single (.dn 1) 0), ([0xF201, 0x4044], .fmoveEaFp .l .double (.dn 1) 0),
      ([0xF200, 0x6480], .fmoveFpEa .s 1 (.dn 0)), ([0xF202, 0x6001], .fmoverz .l 0 (.dn 2)),
      ([0xF201, 0x7983], .fmoveurz .b 3 (.dn 1)), ([0x7146, 0xF202, 0x5400], .floadi ⟨0, 1, 0, 1, 2⟩ .d .default 2 0),
      ([0x7146, 0xF202, 0x7400], .fstorei ⟨0, 1, 0, 1, 2⟩ .d 0 2),
      ([0x7145, 0xA200, 0x0007], .bank ⟨0, 1, 0, 1, 1⟩ (.moviw 7 (.dn 0))),
      ([0x7105, 0x4280], .bank ⟨0, 0, 0, 1, 1⟩ (.clrL (.dn 0)))] : List (List Word × Instr)).all
      (fun e => decodes .default e.1 e.2) = true := by decide

/-- Refused words: legacy instructions (V160), reserved bits and fields, unassigned Line-A words (V154, V155). -/
theorem test_decode_refuses :
    ([([0x4AFC], .noRow), ([0x4E71], .noRow), ([0x4E75], .noRow), ([0x49C0], .noRow), ([0x51C9, 0xFFFA], .noRow),
      ([0xA000], .lineAUnassigned), ([0xA800], .lineAUnassigned),
      ([0xFE00, 0x1250], .ammxM), ([0xFE00, 0x2201], .reservedField), ([0xF620, 0x1000], .reservedField),
      ([0xFF38, 0x0801, 0x0000], .veaUnassigned), ([0x06FD, 0x0001], .eaUnassigned), ([0x4370, 0x0100], .fullExtension),
      ([0x0EC0, 0x20D1], .sizeField), ([0xF200, 0x4800], .fpFormat), ([0xF200, 0x4001], .fpOpmode),
      ([0xFE30, 0x003E, 0x0000], .texForm), ([0x7105, 0x7105, 0x4280], .bundle), ([0x06C0], .truncated)] :
        List (List Word × Reject)).all (fun e => refusesWords .default e.1 e.2) = true := by decide

/-! ### Single steps -/

/-- Supervisor mode with the apollo-bit set, bits 63-32 of a register preserved by narrower writes. -/
def base : State :=
  { State.reset with sr := ⟨0x28, false, false, false, false, false⟩, cfg := { Config.default with upper32 := .preserve } }

/-- User mode with the apollo-bit clear. -/
def user : State := base.setSr ⟨0x00, false, false, false, false, false⟩

/-- Bytes of memory from an address up. -/
def poke (s : State) (a : Addr) (bs : List Byte) : State := s.setMem (s.mem.store a (bs.map some))

/-- One step over words placed at `pc`. -/
def run (ws : List Word) (s : State) : Res State := step (s.loadText s.pc ws)

/-- The step answers a next state of which the condition holds. -/
def sees (o : Res State) (p : State → Bool) : Bool :=
  match o with
  | .next t => p t
  | .fault _ => false
  | .refused _ => false

/-- The step ends in the fault. -/
def faults (o : Res State) (f : Fault) : Bool :=
  match o with
  | .next _ => false
  | .fault g => g == f
  | .refused _ => false

/-- The step is refused for the reason. -/
def refuses (o : Res State) (r : Refusal) : Bool :=
  match o with
  | .next _ => false
  | .fault _ => false
  | .refused q => q == r

/-- X N Z V C. -/
def ccr (s : State) : BitVec 5 := s.sr.word.extractLsb' 0 5

/-- The long of `D[n]`. -/
def dl (s : State) (n : Reg5) : Long := s.long (.d n)

/-- The registers and flags after words run with `D[k].l` as given. -/
def arith (ws : List Word) (k : Reg5) (v r : Long) (f : BitVec 5) : Bool :=
  sees (run ws (base.setLong (.d k) v)) fun t => dl t k == r && ccr t == f

/-- V1, V2, V3. -/
theorem test_addiw :
    arith [0x06C0, 0x8001] 0 0x00010000 0x00008001 0b10001 ∧ arith [0x06C0, 1] 0 0x7FFFFFFF 0x80000000 0b01010 ∧
    arith [0x06C0, 0xFFFF] 0 1 0 0b10101 := by decide

/-- V4, V5, V6. -/
theorem test_addq_subq :
    (sees (run [0x5009] (base.setLong (.b 1) 0x00123456)) fun t => t.long (.b 1) == 0x0012345E && ccr t == 0) ∧
    (sees (run [0x5209] (base.setLong (.b 1) 0xFFFFFFFF)) fun t => t.long (.b 1) == 0 && ccr t == 0b10101) ∧
    (sees (run [0x5309] base) fun t => t.long (.b 1) == 0xFFFFFFFF && ccr t == 0b11001) := by decide

/-- V7, V8. -/
theorem test_cmp :
    (sees (run [0xC181] ((base.setLong (.d 0) 0x1018).setLong (.b 1) 0x1018)) fun t => ccr t == 0b00100) ∧
    (sees (run [0xC181] (base.setLong (.b 1) 1)) fun t => ccr t == 0b01001) := by decide

/-- V9, V10, V11. -/
theorem test_cmpiw :
    arith [0x4E03, 0x4567] 3 0x4567 0x4567 0b00100 ∧ arith [0x4E03, 1] 3 0x80000000 0x80000000 0b00010 ∧
    arith [0x4E03, 0xFFFF] 3 0 0 0b00001 := by decide

/-- V12 to V14 and the byte and word sizes of rule R147. -/
theorem test_clr :
    arith [0x4280] 0 0x12345678 0 0b00100 ∧ arith [0x4200] 0 0x12345678 0x12345600 0b00100 ∧
    arith [0x4240] 0 0x12345678 0x12340000 0b00100 ∧
    (sees (run [0xAE00] (base.setQuad (.d 0) 0x1122334455667788)) fun t => t.quad (.d 0) == 0 && ccr t == 0b00100) ∧
    faults (run [0xAE00] user) (.raised .lineA 0 (user.loadText 0 [0xAE00])) = true := by decide

/-- V15, V16, V17. -/
theorem test_extu :
    arith [0x4BC0] 0 0x123456C4 0xC4 0 ∧ arith [0x4BC0] 0 0xFFFFFF00 0 0b00100 ∧
    arith [0x4DC1] 1 0x89ABCDEF 0xCDEF 0 := by decide

/-- V18, V19, V43, V44. -/
theorem test_lea_movea :
    (sees (run [0x4368, 1] (base.setLong (.a 0) 0x00123456)) fun t => t.long (.b 1) == 0x00123457 && t.pc == 4) ∧
    (sees (run [0x43C9] (base.setLong (.b 1) 0x1018)) fun t => t.long (.a 1) == 0x1018) ∧
    (sees (run [0x1248] (base.setLong (.a 0) 0x00123456)) fun t => t.long (.b 1) == 0x00123456) ∧
    (sees (run [0x127C, 0, 0x2000] base) fun t => t.long (.b 1) == 0x2000 && t.pc == 6) := by decide

/-- The `pc` after one word at an address under the given flags. -/
def goes (w : Word) (ia : Addr) (f : BitVec 5) (target : Addr) : Bool :=
  sees (run [w] ((base.setPc ia).setSr ⟨0, f.getLsbD 4, f.getLsbD 3, f.getLsbD 2, f.getLsbD 1, f.getLsbD 0⟩)) fun t =>
    t.pc == target

/-- V20 to V26. -/
theorem test_branch_displacements :
    goes 0x6701 0x1000 0b00100 0x1082 ∧ goes 0x6701 0x1000 0 0x1002 ∧ goes 0x60FD 0x1000 0 0x0F7E ∧
    goes 0x6081 0x1000 0 0x0F02 ∧ goes 0x607F 0x1000 0 0x1100 ∧ goes 0x6002 0x1000 0 0x1004 ∧
    refuses (run [0x60FF] base) .legacyBranch = true ∧ refuses (run [0x6000] base) .legacyBranch = true := by decide

/-- The condition tests of rule R34: each taken under the flags first given and not under the second. -/
theorem test_branch_conditions :
    ([(0x6202, 0, 0b00001), (0x6302, 0b00100, 0), (0x6402, 0, 0b00001), (0x6502, 0b00001, 0), (0x6602, 0, 0b00100),
      (0x6802, 0, 0b00010), (0x6902, 0b00010, 0), (0x6A02, 0, 0b01000), (0x6B02, 0b01000, 0),
      (0x6C02, 0b01010, 0b00010), (0x6D02, 0b01000, 0b01010), (0x6E02, 0b01010, 0b00100),
      (0x6F02, 0b00100, 0b01010)] : List (Word × BitVec 5 × BitVec 5)).all
      (fun e => goes e.1 0x100 e.2.1 0x104 && goes e.1 0x100 e.2.2 0x102) = true := by decide

/-- V27. -/
theorem test_bsr :
    sees (run [0x6103] ((base.setPc 0x2000).setLong (.a 7) 0x8000)) (fun t =>
      t.long (.a 7) == 0x7FFC && t.longAt 0x7FFC == 0x00002002 && t.pc == 0x2084) = true := by decide

/-- V32: bit 0 of the displacement is 0. -/
theorem test_dbcc_even : decode .default [0x51C9, 0xFFFA] = .reject .noRow := by decide

/-- V28 to V31. -/
theorem test_dbcc :
    (sees (run [0x51C9, 0xFFFB] ((base.setPc 0xA).setLong (.d 1) 3)) fun t => dl t 1 == 2 && t.pc == 6) ∧
    (sees (run [0x51C9, 0xFFFB] (base.setPc 0xA)) fun t => dl t 1 == 0xFFFFFFFF && t.pc == 0xE) ∧
    (sees (run [0x51C9, 0xFFFB] ((base.setPc 0xA).setLong (.d 1) 0x10000)) fun t => dl t 1 == 0xFFFF && t.pc == 6) ∧
    (sees (run [0x57C9, 0xFFFB] (((base.setPc 0xA).setLong (.d 1) 3).setSr ⟨0, false, false, true, false, false⟩)) fun t =>
      dl t 1 == 3 && t.pc == 0xE) := by decide

/-- V33, V34, V35, V36, V42. -/
theorem test_long_moves :
    arith [0xAE40] 0 0 7 0 ∧ arith [0xA041] 1 0 0xFFFFFFFF 0b01000 ∧ arith [0xA200, 0x8123] 0 0 0xFFFF8123 0b01000 ∧
    arith [0xA200, 0] 0 5 0 0b00100 ∧
    (sees (run [0x1009] (base.setLong (.b 1) 0x1018)) fun t => dl t 0 == 0x1018 && ccr t == 0) := by decide

/-- V37 to V41, and the Line-A fault of V153. -/
theorem test_movs_movz :
    ([([0xA300], 0xC4, 0xFFFFFFC4, 0b01000), ([0xA340], 0x7FFF, 0x7FFF, 0), ([0xA340], 0x8000, 0xFFFF8000, 0b01000),
      ([0xA380], 0xC4, 0xC4, 0), ([0xA3C0], 0x8000, 0x8000, 0)] : List (List Word × Long × Long × BitVec 5)).all
      (fun e => sees (run e.1 (base.setLong (.d 0) e.2.1)) fun t => dl t 1 == e.2.2.1 && ccr t == e.2.2.2) = true ∧
    faults (run [0xA041] user) (.raised .lineA 0 (user.loadText 0 [0xA041])) = true := by decide

/-- V45 to V49: MOVE SR in user mode, the apollo-bit, another immediate. -/
theorem test_sr :
    (sees (run [0x40C0] ((base.setSr ⟨0x08, false, false, true, false, false⟩).setLong (.d 0) 0x11112222)) fun t =>
      dl t 0 == 0x11110804) ∧
    (sees (run [0x007C, 0x0800] user) fun t => t.sr.word == 0x0800) ∧
    (sees (run [0x027C, 0xF7FF] (base.setSr ⟨0x08, true, false, false, false, false⟩)) fun t => t.sr.word == 0x0010) ∧
    faults (run [0x007C, 0x0700] user) (.raised .privilegeViolation 0 (user.loadText 0 [0x007C, 0x0700])) = true ∧
    refuses (run [0x007C, 0x0700] base) .legacySrImmediate = true := by decide

/-- V50 to V54. -/
theorem test_movec :
    (sees (run [0x4E7A, 0x0808] user) fun t => dl t 0 == 0x04400101) ∧
    faults (run [0x4E7B, 0x0808] user) (.raised .privilegeViolation 0 (user.loadText 0 [0x4E7B, 0x0808])) = true ∧
    (sees (run [0x4E7B, 0x0808] (base.setLong (.d 0) 0xFFFF0002)) fun t => t.pcr == ⟨false, false, true, false⟩) ∧
    refuses (run [0x4E7B, 0x0808] (base.setLong (.d 0) 4)) .pcrReserved = true ∧
    (sees (run [0x4E7A, 0x0809] base) fun t => t.draws == 1 && t.pc == 4) ∧
    refuses (run [0x4E7B, 0x0809] base) .counterWrite = true ∧ refuses (run [0x4E7A, 0x0801] base) .controlRegister = true := by
  decide

/-- `A0` at a data address with bytes there. -/
def atA0 (bs : List Byte) : State := poke (base.setLong (.a 0) 0x2000) 0x2000 bs

/-- V55 to V58, V60 and the long of program P2. -/
theorem test_pair_moves :
    (sees (run [0x0E50, 0x20D1] ((atA0 [1, 0x23, 0x45, 0x67]).setLong (.d 2) 0xAAAA0000)) fun t =>
      dl t 2 == 0xAAAA0123 && dl t 3 == 0x4567 && ccr t == 0) ∧
    (sees (run [0x0E50, 0x20D2] (atA0 [1, 0x23, 0x45, 0x67])) fun t => dl t 2 == 0x123 && dl t 3 == 0x4567 && ccr t == 0) ∧
    (sees (run [0x0E50, 0x20D2] (atA0 [0x80, 0, 0, 0])) fun t =>
      dl t 2 == 0x8000 && dl t 3 == 0 && t.draws == 1 && !t.sr.z) ∧
    (sees (run [0x0E50, 0x3013] ((atA0 [1, 0x23]).setLong (.d 3) 0xAAAA5555)) fun t => dl t 3 == 0x01235555) ∧
    (sees (run [0x0E50, 0x5010] (atA0 [1, 0x23])) fun t => dl t 5 == 0x2301) ∧
    (sees (run [0x0E90, 0x4010] (atA0 [1, 0x23, 0x45, 0x67])) fun t => dl t 4 == 0x67452301) := by decide

/-- The storing directions of MOVE2, MOVEH and MOVEX (rules R195, R198, R199), and the old MOVE2 (rule R196). -/
theorem test_pair_stores :
    (sees (run [0x0E90, 0x28D1] ((((atA0 []).setLong (.d 2) 0x01234567).setLong (.d 3) 0x89ABCDEF))) fun t =>
      t.quadAt 0x2000 == 0x0123456789ABCDEF) ∧
    (sees (run [0x0E50, 0x3813] ((atA0 []).setLong (.d 3) 0x89ABCDEF)) fun t => t.longAt 0x2000 == 0x89AB0000 && t.sr.n) ∧
    (sees (run [0x0E90, 0x5810] ((atA0 []).setLong (.d 5) 0x11223344)) fun t => t.longAt 0x2000 == 0x44332211) ∧
    (sees (run [0x0E10, 0x2011] { atA0 [0xFF, 0x01] with cfg := { base.cfg with move2Old := true } }) fun t =>
      dl t 2 == 0xFF && dl t 3 == 1 && t.sr.n) := by decide

/-- V59, V61: MOVEX between registers, PERM under a BANK prefix. -/
theorem test_movex_perm :
    (sees (run [0x0E88, 0x9010] (base.setLong (.a 0) 0x12345678)) fun t => t.long (.a 1) == 0x78563412 && ccr t == 0) ∧
    (sees (run [0x7141, 0x4CC8, 0x16D5] ((base.setLong (.a 0) 0x00112233).setLong (.d 9) 0x44556677)) fun t =>
      dl t 9 == 0x33332255 && t.pc == 6) := by decide

/-- V62, V63; the pc of the forms without increment (rule R187). -/
theorem test_move16 :
    (sees (run [0xF620, 0x9000] (poke ((base.setLong (.a 0) 0x1001).setLong (.a 1) 0x2003) 0x1001 [0xAA, 0xBB])) fun t =>
      t.wordAt 0x2003 == 0xAABB && t.long (.a 0) == 0x1011 && t.long (.a 1) == 0x2013) ∧
    (sees (run [0xF608, 0, 0x3000] (poke (base.setLong (.a 0) 0x4000) 0x300F [0xCC])) fun t =>
      t.byteAt 0x400F == 0xCC && t.long (.a 0) == 0x4010 && t.pc == 6) ∧
    (sees (run [0xF618, 0, 0x3000] (poke (base.setLong (.a 0) 0x4000) 0x3000 [0xDD])) fun t =>
      t.byteAt 0x4000 == 0xDD && t.long (.a 0) == 0x4000) ∧
    refuses (run [0xF600, 0, 0x4008] (base.setLong (.a 0) 0x4000)) .move16Overlap = true := by decide

/-- V64, V65. -/
theorem test_touch :
    sees (run [0xF631, 0x1C20] base) (fun t => t == (base.loadText 0 [0xF631, 0x1C20]).setPc 4) = true ∧
    refuses (run [0xF610] base) (.form .conflicted) = true := by decide

/-- V66 to V70. -/
theorem test_bank :
    (sees (run [0x7145, 0xA200, 7] base) fun t => dl t 8 == 7 && dl t 0 == 0 && ccr t == 0 && t.pc == 6) ∧
    (sees (run [0x7105, 0x4280] (base.setLong (.d 8) 5)) fun t => dl t 8 == 0 && ccr t == 0b00100 && t.pc == 4) ∧
    refuses (run [0x7101, 0xA200, 7] base) (.form .bundle) = true ∧
    refuses (run [0x7105, 0x7105, 0x4280] base) (.form .bundle) = true ∧
    faults (run [0x7145, 0xA200, 7] user) (.raised .lineA 0 (user.loadText 0 [0x7145, 0xA200, 7])) = true := by decide

/-- A three-operand AMMX vector: `<vea>` = d0, b = d1, d = d2. -/
def lanes (op : Word) (a b r : QWord) : Bool :=
  sees (run [0xFE00, op] ((base.setQuad (.d 0) a).setQuad (.d 1) b)) fun t => t.quad (.d 2) == r && t.sr == base.sr && t.pc == 4

/-- V72 to V79. -/
theorem test_padd_psub :
    lanes 0x1210 0x01FF7F80000000FF 0x01018080000000FF 0x0200FF00000000FE ∧
    lanes 0x1211 0xFFFF000180007FFF 0x0001000180000001 0x0000000200008000 ∧
    lanes 0x1214 0x01FF7F80000000FF 0x01018080000000FF 0x02FFFFFF000000FF ∧
    lanes 0x1215 0xFFFF000180007FFF 0x0001000180000001 0xFFFF0002FFFF8000 ∧
    lanes 0x1212 0x0102FF8000000001 0x0001007F00000000 0xFFFF01FF000000FF ∧
    lanes 0x1213 0x00010002FFFF8000 0x0000000200007FFF 0xFFFF00000001FFFF ∧
    lanes 0x1216 0x01FF000000000010 0xFF00000000000030 0xFE00000000000020 ∧
    lanes 0x1217 0x0001000000008000 0x03F00000765A7FFF 0x03EF0000765A0000 := by decide

/-- V80 to V87. -/
theorem test_pcmp :
    lanes 0x1220 0x0001027F80FF0000 0x0002027F7FFF0100 0xFF00FFFF00FF00FF ∧
    lanes 0x1222 0x0001027F80FF0000 0x0002027F7FFF0100 0x00FF00000000FF00 ∧
    lanes 0x122C 0x0001027F80FF0000 0x0002027F7FFF0100 0xFFFFFFFFFFFFFFFF ∧
    lanes 0x122E 0x0001027F80FF0000 0x0002027F7FFF0100 0x00FF0000FF00FF00 ∧
    lanes 0x1221 0x00018000FFFF7FFF 0x00017FFFFFFF8000 0xFFFF0000FFFF0000 ∧
    lanes 0x1223 0x00018000FFFF7FFF 0x00017FFFFFFF8000 0x000000000000FFFF ∧
    lanes 0x122D 0x00018000FFFF7FFF 0x00017FFFFFFF8000 0xFFFFFFFFFFFF0000 ∧
    lanes 0x122F 0x00018000FFFF7FFF 0x00017FFFFFFF8000 0x0000FFFF00000000 := by decide

/-- V88 to V95. -/
theorem test_pmax_pmin :
    lanes 0x1234 0x007F80FF01020304 0xFF8001FE04030201 0x007F01FF04030304 ∧
    lanes 0x1236 0x007F80FF01020304 0xFF8001FE04030201 0xFF8080FF04030304 ∧
    lanes 0x1230 0x007F80FF01020304 0xFF8001FE04030201 0xFF8080FE01020201 ∧
    lanes 0x1232 0x007F80FF01020304 0xFF8001FE04030201 0x007F01FE01020201 ∧
    lanes 0x1235 0x7FFF8000FFFF0001 0x80007FFF00000002 0x7FFF7FFF00000002 ∧
    lanes 0x1237 0x7FFF8000FFFF0001 0x80007FFF00000002 0x80008000FFFF0002 ∧
    lanes 0x1231 0x7FFF8000FFFF0001 0x80007FFF00000002 0x80008000FFFF0001 ∧
    lanes 0x1233 0x7FFF8000FFFF0001 0x80007FFF00000002 0x7FFF7FFF00000001 := by decide

/-- V96 to V99; PMUL88 from the products of V96 (rule R281): bits 23-8 of $3FFF0001, $40000000, $FFFFFFFE, $0000000C. -/
theorem test_products :
    lanes 0x121A 0x7FFF800000020003 0x7FFF8000FFFF0004 0x3FFF4000FFFF0000 ∧
    lanes 0x121B 0x7FFF800000020003 0x7FFF8000FFFF0004 0x00010000FFFE000C ∧
    lanes 0x1218 0x7FFF800000020003 0x7FFF8000FFFF0004 0xFF000000FFFF0000 ∧
    lanes 0x1219 0x401062DCFF010203 0x00FF80B0AA112233 0x004F82FF00112233 ∧
    lanes 0x120C 0x00FF01FE00000003 0x00FF02FF00000004 0x00FF02FF00000004 := by decide

/-- V100 to V107. -/
theorem test_logic_and_shifts :
    lanes 0x1208 0x12FF12FF00FF00FF 0x1212FFFF0000FFFF 0x121212FF000000FF ∧
    lanes 0x1209 0x12FF12FF00FF00FF 0x1212FFFF0000FFFF 0x12FFFFFF00FFFFFF ∧
    lanes 0x120A 0x12FF12FF00FF00FF 0x1212FFFF0000FFFF 0x00EDED0000FFFF00 ∧
    lanes 0x120B 0x12FF12FF00FF00FF 0x1212FFFF0000FFFF 0x0000ED000000FF00 ∧
    lanes 0x1238 68 0xF000000000000001 0x0000000000000010 ∧ lanes 0x1239 8 0x8000000000000100 0x0080000000000001 ∧
    lanes 0x1239 64 0x8000000000000100 0x8000000000000100 ∧
    (sees (run [0xFE00, 0x1229] (((base.setQuad (.d 0) 0x1122334455667788).setQuad (.d 1) 0xFF00FF0000000000).setQuad (.d 2)
      0xAAAAAAAAAAAAAAAA)) fun t => t.quad (.d 2) == 0x11AA33AAAAAAAAAA) := by decide

/-- V108 to V111. -/
theorem test_c2p :
    ([(0x0100000000000000, 0x80), (0xFF00000000000000, 0x8080808080808080), (0x0102040810204080, 0x0102040810204080),
      (0xFF, 0x0101010101010101)] : List (QWord × QWord)).all
      (fun e => sees (run [0xFE00, 0x0128] (base.setQuad (.d 0) e.1)) fun t => t.quad (.d 1) == e.2) = true := by decide

/-- `A0` at the bytes of V112. -/
def loads : State := atA0 [1, 0x23, 0x45, 0x67, 0x89, 0xAB, 0xCD, 0xEF]

/-- V112 to V116. -/
theorem test_load_loadi :
    (sees (run [0xFE10, 0x0801] loads) fun t => t.quad (.d 8) == 0x0123456789ABCDEF && t.long (.a 0) == 0x2000) ∧
    (sees (run [0xFE3C, 0x0201, 0x0011, 0x2233, 0x4455, 0x6677] base) fun t => t.quad (.d 2) == 0x0011223344556677 && t.pc == 12) ∧
    (sees (run [0xFF3C, 0x0101, 0x1234] base) fun t => t.quad (.d 1) == 0x1234123412341234 && t.pc == 6) ∧
    (sees (run [0xFE10, 0x1101] (loads.setQuad (.d 1) 47)) fun t => t.quad (.d 15) == 0x0123456789ABCDEF && t.quad (.d 1) == 47) ∧
    refuses (run [0xFE10, 0x1101] (loads.setQuad (.d 1) 24)) .indirectIndex = true := by decide

/-- V117, V118, V122. -/
theorem test_store_storei :
    (sees (run [0xFF11, 0x8004] ((base.setQuad (.d 8) 0x0123456789ABCDEF).setLong (.b 1) 0x1018)) fun t =>
      t.quadAt 0x1018 == 0x0123456789ABCDEF) ∧
    (sees (run [0xFE23, 0x1004] ((base.setQuad (.d 1) 0x0123456789ABCDEF).setLong (.a 3) 0x2008)) fun t =>
      t.quadAt 0x2000 == 0x0123456789ABCDEF && t.long (.a 3) == 0x2000) ∧
    (sees (run [0xFE11, 0x0104] (((base.setQuad (.d 0) 47).setQuad (.d 15) 0x0123456789ABCDEF).setLong (.a 1) 0x1000)) fun t =>
      t.quadAt 0x1000 == 0x0123456789ABCDEF) := by decide

/-- What a masked store of `D[0]` or `E[10]` under `D[1]` and `E[11]` leaves at `A2`, over bytes `$EE`. -/
def leaves (ws : List Word) (x m r : QWord) : Bool :=
  sees (run ws (poke (((((base.setQuad (.d 0) x).setQuad (.d 18) x).setQuad (.d 1) m).setQuad (.d 19) m).setLong (.a 2) 0x2000)
    0x2000 (List.replicate 8 0xEE))) fun t => t.quadAt 0x2000 == r

/-- V119 to V121, V123, V124. -/
theorem test_masked_stores :
    leaves [0xFE12, 0x0124] 0x1122334455667788 3 0x112233EEEEEEEEEE ∧
    leaves [0xFE12, 0x0124] 0x1122334455667788 0xFFFFFFFF 0xEEEEEEEEEEEEEEEE ∧
    leaves [0xFE12, 0x0124] 0x1122334455667788 0x7FFFFFFF 0x1122334455667788 ∧
    leaves [0xFE12, 0x0105] 0x1122334455667788 0x0101000101000001 0xEEEE33EEEE6677EE ∧
    leaves [0xFED2, 0x2325] 0x1122334455667788 0xA1 0x11EE33EEEEEEEE88 := by decide

/-- S21: STOREM3 in its four modes, under `STOREM3_OPCODE = $3F`. -/
theorem test_storem3 :
    ([(0x003F, 0xF81F0034EEEEEEEE), (0x013F, 0xF81FEE3412EE8765), (0x023F, 0xEEEE003412008765), (0x033F, 0xEEEE00341200EEEE)] :
        List (Word × QWord)).all (fun e =>
      sees (run [0xFE12, e.1] (poke { (base.setQuad (.d 0) 0xF81F003412008765).setLong (.a 2) 0x2000 with
          cfg := { base.cfg with storem3Opcode := some 0x3F } } 0x2000 (List.replicate 8 0xEE))) fun t =>
        t.quadAt 0x2000 == e.2) = true := by decide

/-- V125 to V129. -/
theorem test_pack_unpack :
    leaves [0xFE12, 0x0106] 0xF80007E000FE0012 0x0001000200034567 0x00FFFE12010203FF ∧
    (sees (run [0xFE0A, 0x0107] ((base.setQuad (.d 0) 0x00FF00000000FF00).setQuad (.d 1) 0x00FF00FF000000FF)) fun t =>
      t.quad (.d 10) == 0xF80007E0F81F001F) ∧
    (sees (run [0xFE00, 0x021E] (base.setQuad (.d 0) 0xF80007E0F81F001F)) fun t =>
      t.quad (.d 2) == 0x00FF00000000FF00 && t.quad (.d 3) == 0x00FF00FF000000FF) ∧
    (sees (run [0xFE00, 0x021E] (base.setQuad (.d 0) 0x8410000000000000)) fun t =>
      t.quad (.d 2) == 0x0084828400000000 && t.quad (.d 3) == 0) ∧
    refuses (run [0xFE00, 0x031E] base) (.form .pairOdd) = true := by decide

/-- V130, V131. -/
theorem test_bfly :
    (sees (run [0xFE10, 0x9E1C] ((atA0 [4, 4, 4, 3, 0x14, 4, 5, 0x88]).setQuad (.d 9) 0x00FF343374556677)) fun t =>
      t.quad (.d 14) == 0x0403383688596BFF && t.quad (.d 15) == 0xFCFB3030605161EF) ∧
    (sees (run [0xFE00, 0x121D] ((base.setQuad (.d 0) 0x0001FFFF80000010).setQuad (.d 1) 0x0001000180000020)) fun t =>
      t.quad (.d 2) == 0x0002000000000030 && t.quad (.d 3) == 0x0000000200000010) := by decide

/-- The four sources of V132. -/
def rows : State :=
  (((base.setQuad (.d 0) 0x0011223344556677).setQuad (.d 1) 0x8899AABBCCDDEEFF).setQuad (.d 2) 0x0123456789ABCDEF).setQuad
    (.d 3) 0xFEDCBA9876543210

/-- V132, V134, V135, and TRANSLO over the sources of V132 (rule R304). -/
theorem test_trans_minterm_vperm :
    (sees (run [0xFE00, 0x0602] rows) fun t => t.quad (.d 6) == 0x001188990123FEDC && t.quad (.d 7) == 0x2233AABB4567BA98) ∧
    (sees (run [0xFE00, 0x0603] rows) fun t => t.quad (.d 6) == 0x4455CCDD89AB7654 && t.quad (.d 7) == 0x6677EEFFCDEF3210) ∧
    (sees (run [0xFE00, 0x062A] ((((base.setQuad (.d 0) 0x0123456789ABCDEF).setQuad (.d 1) 0x000FFFC000CFFFF0).setQuad (.d 2)
      0x5555555555555555).setQuad (.d 3) 0xE2)) fun t => t.quad (.d 6) == 0x55534555559BCDE5) ∧
    (sees (run [0xFE3F, 0x9E00, 0x3210, 0xAB78] (rows.setQuad (.d 9) 0x8899AABBCCDDEEFF)) fun t =>
      t.quad (.d 14) == 0x33221100AABB7788 && t.pc == 8) := by decide

/-- STORE D1,d16(pc): `$FE3A`, `$1004`, the displacement. -/
theorem test_store_to_pc_relative_is_refused :
    refuses (run [0xFE3A, 0x1004, 0x0010] base) (.form .operandForm) = true := by decide

/-- V133. -/
theorem test_translo :
    (sees (run [0xFE00, 0x0603] ((((base.setQuad (.d 0) 0x00112233).setQuad (.d 1) 0x44556677).setQuad (.d 2)
      0x8899AABB).setQuad (.d 3) 0xCCDDEEFF)) fun t =>
      t.quad (.d 6) == 0x001144558899CCDD && t.quad (.d 7) == 0x22336677AABBEEFF) := by decide

/-- V136, V137, TEX and TEX.b. -/
theorem test_refused_ammx :
    refuses (run [0xFE00, 0x123E] base) (.form .noRow) = true ∧ refuses (run [0xFE00, 0x1250] base) (.form .ammxM) = true ∧
    refuses (run [0xFE31, 0x203E, 0xB800] base) .texNoSemantics = true ∧
    refuses (run [0xFE31, 0x203E, 0xB050] base) .texNoSemantics = true := by decide

/-- A floating-point register of a number. -/
def withFp (n : Reg3) (x : QWord) : State := base.putFp (0#2 ++ n) x

/-- N Z I nan. -/
def fcc (s : State) : List Bool := [s.fpcc.n, s.fpcc.z, s.fpcc.i, s.fpcc.nan]

/-- V138 to V141. -/
theorem test_fmove_in :
    (sees (run [0xF200, 0x5480] (base.setQuad (.d 0) 0x3FF8000000000000)) fun t =>
      t.fp 1 == 0x3FF8000000000000 && fcc t == [false, false, false, false]) ∧
    (sees (run [0xF201, 0x4000] (base.setLong (.d 1) 0xFFFFFFFE)) fun t => t.fp 0 == 0xC000000000000000 && t.fpcc.n) ∧
    (sees (run [0xF200, 0x4400] (base.setLong (.d 0) 0x7F800000)) fun t => t.fp 0 == 0x7FF0000000000000 && t.fpcc.i) ∧
    (sees (run [0xF200, 0x5800] ((withFp 0 1).setLong (.d 0) 0x100)) fun t => t.fp 0 == 0 && t.fpcc.z) := by decide

/-- V142 to V145. -/
theorem test_fmove_out :
    (sees (run [0xF200, 0x7480] (withFp 1 0x4000000000000000)) fun t => t.quad (.d 0) == 0x4000000000000000) ∧
    (sees (run [0xF200, 0x6480] (withFp 1 0x3FF8000000000000)) fun t => dl t 0 == 0x3FC00000) ∧
    (sees (run [0xF200, 0x6080] (withFp 1 0x4008000000000000)) fun t => dl t 0 == 3) ∧
    (sees (run [0xF200, 0x6080] (withFp 1 0x3FF8000000000000)) fun t => t.draws == 1) := by decide

/-- V146 to V149. -/
theorem test_fmoverz_fmoveurz :
    (sees (run [0xF202, 0x6001] (withFp 0 0xC004000000000000)) fun t => dl t 2 == 0xFFFFFFFE && t.fpcc.n) ∧
    (sees (run [0xF202, 0x6001] (withFp 0 0x400C000000000000)) fun t => dl t 2 == 3) ∧
    (sees (run [0xF201, 0x7983] ((withFp 3 0x406FE00000000000).setLong (.d 1) 0x12345678)) fun t => dl t 1 == 0x123456FF) ∧
    (sees (run [0xF201, 0x7983] ((withFp 3 0x4070000000000000).setLong (.d 1) 0x12345678)) fun t =>
      t.draws == 1 && t.pc == 4) := by decide

/-- V71, its reverse (rule R328), V150 to V152. -/
theorem test_float_bank_fdbcc :
    (sees (run [0x7146, 0xF202, 0x5400] (base.setQuad (.d 10) 0x3FF8000000000000)) fun t => t.quad (.d 16) == 0x3FF8000000000000) ∧
    (sees (run [0x7141, 0xF202, 0x7400] (withFp 0 0x3FF8000000000000)) fun t => t.quad (.d 10) == 0x3FF8000000000000) ∧
    (sees (run [0xF249, 0x000E, 0xFFF9] (((base.setPc 0x100).setFpcc ⟨false, true, false, false⟩).setLong (.d 1) 5)) fun t =>
      dl t 1 == 4 && t.pc == 0xFC) ∧
    (sees (run [0xF249, 0x000E, 0xFFF9] ((base.setPc 0x100).setLong (.d 1) 5)) fun t => dl t 1 == 5 && t.pc == 0x106) ∧
    refuses (run [0xF200, 0x5480] (base.setPcr ⟨false, false, true, false⟩)) .fpuDisabled = true := by decide

/-- V154 to V159: unassigned Line-A words, an odd `pc`, the trace exception and what does not trace. -/
theorem test_exceptions :
    faults (run [0xA000] base) (.raised .lineA 0 (base.loadText 0 [0xA000])) = true ∧
    faults (run [0xA800] base) (.raised .lineA 0 (base.loadText 0 [0xA800])) = true ∧
    faults (step (base.setPc 1)) (.raised .addressError 1 (base.setPc 1)) = true ∧
    (match run [0x4280] ((base.setSr ⟨0x80, false, false, false, false, false⟩).setLong (.d 0) 7) with
      | .fault (.raised .trace info t) => info == 2 && t.pc == 2 && dl t 0 == 0
      | _ => false) = true ∧
    (sees (run [0x007C, 0x0800] (base.setSr ⟨0x80, false, false, false, false, false⟩)) fun t => t.sr.word == 0x8800) ∧
    (sees (run [0x6602] (base.setSr ⟨0x80, false, false, true, false, false⟩)) fun t => t.pc == 2) := by decide

/-- Rules R72, R80, R384: a store into the text, an access outside the data addresses, the end of a run. -/
theorem test_stops :
    refuses (run [0xFE10, 0x0004] base) (.storeIntoText 0) = true ∧
    faults (run [0xFE10, 0x0001] { base with regions := [⟨0, 4⟩] }) (.outsideData 4) = true ∧
    faults (step base) (.endOfText 0) = true := by decide

/-- The placing of a table word runs it: `CLR.L D0`, row `CLR.L`. -/
theorem test_with_fetch_word :
    decodeTableWord 16 0x4280 = some (.clrL (.dn 0)) ∧
    (sees (step (State.reset.withFetchWord 16 0x4280)) fun t => dl t 0 == 0 && t.pc == 2) := by decide

/-! ### Witnesses: states and operands that meet the hypotheses of the statements, named after them -/

theorem next_of_sees {o : Res State} {p : State → Bool} (h : sees o p = true) : ∃ t, o = .next t ∧ p t = true := by
  cases o with
  | next t => exact ⟨t, rfl, h⟩
  | fault f => simp [sees] at h
  | refused r => simp [sees] at h

theorem readable_of {as : List Addr} {s : State} (h : as.all s.inData = true) : Readable as s :=
  fun a ha => List.all_eq_true.1 h a ha

theorem writable_of {as : List Addr} {s : State} (h : as.all (fun a => s.inData a && !s.inText a) = true) : Writable as s :=
  fun a ha => by simpa using List.all_eq_true.1 h a ha

theorem outsideText_of {as : List Addr} {s : State} (h : as.all (fun a => !s.inText a) = true) :
    ∀ a ∈ as, s.inText a = false :=
  fun a ha => by simpa using List.all_eq_true.1 h a ha

/-- Every parameter away from its default. -/
def otherConfig : Config :=
  ⟨.zero, false, true, .move16, some 0x3F, .lsbFirst, true, .f32, 0⟩

/-- Data at the end of the address space and from 0 on: an access may wrap (rule R64). -/
def wraps : State := { base.setLong (.a 0) 0xFFFFFFFC with regions := [⟨0xFFFFFFFC, 4⟩, ⟨0, 16⟩], text := [⟨0x1000, 16⟩] }

/-- `wraps` with the parameters of `otherConfig`. -/
def others : State := { wraps with cfg := otherConfig }

theorem witness_DecodingTheEncodingGivesTheInstruction :
    ([.fmoveEaFp .d .single (.imm 0xFFFFFFFFFFFFFFFF) 7, .dbccL 15 7 0xFFFF, .load (.immQ 0x8000000000000000) 31,
      .bank ⟨0, 3, 0, 3, 3⟩ (.clrB (.dn 7))] : List Instr).all (fun i => i.wellFormed .default) = true ∧
    ([.move2Old .b true 14 (.absL 0xFFFFFFFF), .storem3 31 3 3 (.disp (.b 7) 0xFFFF), .move16AnAbs 7 0xFFFFFFFF,
      .floadi ⟨0, 1, 0, 3, 3⟩ .s .double 7 7] : List Instr).all (fun i => i.wellFormed otherConfig) = true := by decide

theorem witness_UnassignedLineAAndMBitWordsAreRejected :
    (let w : Word := 0xFFFE
     let w2 : Word := 0xFFC0
     w.extractLsb' 9 7 = 0x7F#7 ∧ w.extractLsb' 0 6 ≠ 0x3F#6 ∧ w2.extractLsb' 6 2 ≠ 0#2) ∧
    ([0xA080, 0xAEBF, 0xA0C0, 0xAEFF, 0xA000, 0xA03F, 0xA400, 0xAC3F] : List Word).all (fun w =>
      decide (w.extractLsb' 12 4 = 0xA#4 ∧ (w.extractLsb' 6 3 = 2#3 ∨ w.extractLsb' 6 3 = 3#3 ∨
        (w.extractLsb' 6 3 = 0#3 ∧ w.extractLsb' 9 3 ≠ 1#3 ∧ w.extractLsb' 9 3 ≠ 7#3)))) = true := by decide

theorem witness_NextIsTheAddressAfterTheLastWord :
    (Instr.addiw 0xFFFF (.postinc 0)).wellFormed wraps.cfg = true ∧ branches (.addiw 0xFFFF (.postinc 0)) = false ∧
    ∃ t, exec (.addiw 0xFFFF (.postinc 0)) wraps = .next t :=
  ⟨by decide, by decide, (next_of_sees (p := fun _ => true) (by decide)).imp fun _ h => h.1⟩

/-- MOV3Q at the last even address: its word lies at `$FFFFFFFE`. -/
def lastWord : State := { base.setPc 0xFFFFFFFE with
  mem := [(0xFFFFFFFE, 0xAE), (0xFFFFFFFF, 0x40)], text := [⟨0xFFFFFFFE, 2⟩] }

theorem witness_StepRunsTheDecodedInstruction :
    lastWord.pc.getLsbD 0 = false ∧ lastWord.fetch = [0xAE40] ∧ lastWord.sr.word.getLsbD 11 = true ∧
    decode lastWord.cfg [0xAE40] = .ok (.mov3q 7 (.dn 0)) [] ∧ (Instr.mov3q 7 (.dn 0)).wellFormed lastWord.cfg = true := by
  decide

theorem witness_FetchReadsTheProgramText :
    (∀ k, k < 2 * 6 + 2 → wraps.inText ((wraps.setPc 0x1000).pc + BitVec.ofNat 32 k) = true) ∧
    (∀ k, k < 2 * 0 + 2 → lastWord.inText (lastWord.pc + BitVec.ofNat 32 k) = true) ∧
    (2 < 2 * 1 + 2 ∧ lastWord.inText (lastWord.pc + BitVec.ofNat 32 2) = false) := by decide

theorem witness_LineAWordsRaiseLineA :
    ([0xAE40, 0xA000, 0xAFFF] : List Word).all (fun w => decide ((user.loadText 0 [w]).pc.getLsbD 0 = false ∧
      (user.loadText 0 [w]).fetch = [w] ∧ w.extractLsb' 12 4 = 0xA#4 ∧ user.sr.word.getLsbD 11 = false)) = true ∧
    ([0xA0BF, 0xAEC0, 0xAC00] : List Word).all (fun w => decide ((base.loadText 0 [w]).pc.getLsbD 0 = false ∧
      (base.loadText 0 [w]).fetch = [w] ∧ w.extractLsb' 12 4 = 0xA#4 ∧ (base.loadText 0 [w]).sr.word.getLsbD 11 = true ∧
      (w.extractLsb' 6 3 = 2#3 ∨ w.extractLsb' 6 3 = 3#3 ∨
        (w.extractLsb' 6 3 = 0#3 ∧ w.extractLsb' 9 3 ≠ 1#3 ∧ w.extractLsb' 9 3 ≠ 7#3)))) = true := by decide

theorem witness_UntracedInstructionsAreTheSpecialCases :
    (∀ imm, Instr.bsr 2 ≠ .oriSr imm) ∧ (∀ p dn w, Instr.bsr 2 ≠ .fdbccL p dn w) ∧
    (∀ cc dn w, Instr.bsr 2 ≠ .dbccL cc dn w) ∧ ∀ e ∈ bccTable, ∀ d8, Instr.bsr 2 ≠ e.1 d8 := by
  simp [bccTable]

theorem witness_OddPcFaultsAndRunsEndOutsideTheText :
    (base.setPc 0xFFFFFFFF).pc.getLsbD 0 = true ∧ (wraps.setPc 0x1010).pc.getLsbD 0 = false ∧
    wraps.inText (wraps.setPc 0x1010).pc = false := by decide

theorem witness_StepKeepsPcEvenAndMemoryCanonical : Inv lastWord ∧ ∃ t, step lastWord = .next t :=
  ⟨⟨by decide, by decide⟩, (next_of_sees (p := fun _ => true) (by decide)).imp fun _ h => h.1⟩

theorem witness_StepKeepsModeTraceBitTextAndParameters :
    (∃ t, step ((user.setSr ⟨0x87, false, false, false, false, false⟩).loadText 0 [0x007C, 0x0800]) = .next t) ∧
    lastWord.mem.wf = true ∧ lastWord.inText 0xFFFFFFFF = true ∧ ∃ t, step lastWord = .next t :=
  ⟨(next_of_sees (p := fun _ => true) (by decide)).imp fun _ h => h.1, by decide, by decide,
    (next_of_sees (p := fun _ => true) (by decide)).imp fun _ h => h.1⟩

/-- STORE D1 over the end of the address space, in a state with a program, data and addresses that are neither. -/
def storing : State := wraps.loadText 0x1100 [0xFE10, 0x1004] |>.setPc 0x1100

theorem witness_AmmxChangesNoFlagAndNoSpecialRegister :
    isAmmx (.store 31 (.ind (.a 0))) = true ∧ ∃ t, exec (.store 31 (.ind (.a 0))) wraps = .next t :=
  ⟨by decide, (next_of_sees (p := fun _ => true) (by decide)).imp fun _ h => h.1⟩

theorem witness_StoredQuadReadsBackBigEndian :
    wraps.mem.wf = true ∧ Writable (span 0xFFFFFFFC 8) wraps ∧ lastWord.mem.wf = true ∧ Writable (span 0 8) lastWord := by
  and_intros <;> first | exact readable_of (by decide) | exact writable_of (by decide) | decide

theorem witness_StoresIntoTextAndOutsideDataStop :
    (veaAt (.absL 0x0FF9) wraps).loc = .mem 0x0FF9 ∧ (∃ a ∈ span 0x0FF9 8, wraps.inText a = true) ∧
    (veaAt (.absL 9) wraps).loc = .mem 9 ∧ (∀ a ∈ span 9 8, wraps.inText a = false) ∧
    (∃ a ∈ span 9 8, wraps.inData a = false) :=
  ⟨rfl, ⟨0x1000, by simp [span, List.range, List.range.loop], by decide⟩, rfl, outsideText_of (by decide),
    ⟨16, by simp [span, List.range, List.range.loop], by decide⟩⟩

/-- The same for a one-byte store, a masked store and MOVE16's 16 bytes, each with its last byte beyond the bound. -/
theorem witness_EveryStoreAndReadCanStop :
    (∃ a ∈ span 0x1000 1, wraps.inText a = true) ∧ (∃ a ∈ span 16 1, wraps.inData a = false) ∧
    (∃ a ∈ written 0x0FFF [none, some 0], wraps.inText a = true) ∧
    (∃ a ∈ written 15 [some 0, some 0], wraps.inData a = false) ∧ (∃ a ∈ span 1 16, wraps.inData a = false) :=
  ⟨⟨0x1000, by simp [span, List.range, List.range.loop], by decide⟩,
    ⟨16, by simp [span, List.range, List.range.loop], by decide⟩,
    ⟨0x1000, by simp [written], by decide⟩, ⟨16, by simp [written], by decide⟩,
    ⟨16, by simp [span, List.range, List.range.loop], by decide⟩⟩

theorem witness_NoStepChangesTextOrBytesOutsideData :
    storing.mem.wf = true ∧ storing.inText 0x1103 = true ∧ storing.inData 16 = false ∧ ∃ t, step storing = .next t :=
  ⟨by decide, by decide, by decide, (next_of_sees (p := fun _ => true) (by decide)).imp fun _ h => h.1⟩

theorem witness_LongWritesTreatTheUpperHalfAsConfigured :
    base.cfg.upper32 = .preserve ∧ others.cfg.upper32 = .zero := by decide

theorem witness_AddiwAddsTheSignExtendedWord :
    (Instr.addiw 0xFFFF (.postinc 0)).wellFormed wraps.cfg = true ∧ wraps.mem.wf = true ∧
    Writable ((locate .l (wraps.pc + 4) 0 (.postinc 0) wraps).loc.addrs .l) wraps := by
  and_intros <;> first | exact readable_of (by decide) | exact writable_of (by decide) | decide

theorem witness_ComparesSetFlagsAsSubtraction :
    (Instr.cmpiw 0x8000 (.predec 1)).wellFormed wraps.cfg = true ∧
    Readable ((locate .l (wraps.pc + 4) 0 (.predec 1) wraps).loc.addrs .l) wraps := by
  and_intros <;> first | exact readable_of (by decide) | exact writable_of (by decide) | decide

theorem witness_ClrWritesZeroOfItsSize :
    ([.clrB (.postinc 0), .clrW (.postinc 0), .clrL (.postinc 0), .clrQ (.postinc 0)] : List Instr).all
      (fun i => i.wellFormed wraps.cfg) = true ∧
    Writable ((locate .b (wraps.pc + 2) 0 (.postinc 0) wraps).loc.addrs .b) wraps ∧
    Writable ((locate .w (wraps.pc + 2) 0 (.postinc 0) wraps).loc.addrs .w) wraps ∧
    Writable ((locate .l (wraps.pc + 2) 0 (.postinc 0) wraps).loc.addrs .l) wraps ∧
    Writable ((locate .q (wraps.pc + 2) 0 (.postinc 0) wraps).loc.addrs .q) wraps ∧
    wraps.mem.wf = true ∧ wraps.sr.word.getLsbD 11 = true ∧ user.mem.wf = true ∧ user.sr.word.getLsbD 11 = false := by
  and_intros <;> first | exact readable_of (by decide) | exact writable_of (by decide) | decide

theorem witness_BranchesGoWhereTheDisplacementSays :
    ((1 : Byte) ≠ 0 ∧ (1 : Byte) ≠ 0xFF) ∧ ((0xFE : Byte) ≠ 0 ∧ (0xFE : Byte) ≠ 0xFF) ∧ ((0 : Byte) = 0 ∨ (0 : Byte) = 0xFF) ∧
    ((0xFF : Byte) = 0 ∨ (0xFF : Byte) = 0xFF) := by decide

theorem witness_BsrPushesTheReturnAddress :
    (0x7F : Byte) ≠ 0 ∧ (0x7F : Byte) ≠ 0xFF ∧ wraps.mem.wf = true ∧ Writable (span (wraps.long (.a 7) - 4) 4) wraps := by
  and_intros <;> first | exact readable_of (by decide) | exact writable_of (by decide) | decide

theorem witness_DbccCountsALongDown :
    ((0xFFFB : Word).getLsbD 0 = true ∧ (1 : Word).getLsbD 0 = true) ∧
    (conditionTable base.sr)[(0 : BitVec 4).toNat]? = some true ∧ (conditionTable base.sr)[(1 : BitVec 4).toNat]? = some false ∧
    (conditionTable base.sr)[(0xE : BitVec 4).toNat]? = some true ∧
    (conditionTable base.sr)[(0xF : BitVec 4).toNat]? = some false := by decide

theorem witness_LeaAndMoveaLoadAddressRegisters :
    (Instr.leaEaBn (.pcDisp 0x8000) 7).wellFormed base.cfg = true ∧
    (locate .l (base.pc + 2) 0 (.pcDisp 0x8000) base).loc = .mem 0xFFFF8002 ∧
    (Instr.moveaEaBn (.postinc 0) 7).wellFormed wraps.cfg = true ∧
    Readable ((locate .l (wraps.pc + 2) 0 (.postinc 0) wraps).loc.addrs .l) wraps := by
  and_intros <;> first | exact readable_of (by decide) | exact writable_of (by decide) | decide

theorem witness_LongMovesWriteTheirValue :
    wraps.mem.wf = true ∧ wraps.sr.word.getLsbD 11 = true ∧ user.sr.word.getLsbD 11 = false ∧ user.mem.wf = true ∧
    (Instr.moveBnEa 7 (.predec 1)).wellFormed wraps.cfg = true ∧ (Instr.mov3q 0 (.predec 1)).wellFormed wraps.cfg = true ∧
    (Instr.moviw 0x8000 (.predec 1)).wellFormed wraps.cfg = true ∧
    Writable ((locate .l (wraps.pc + 2) 0 (.predec 1) wraps).loc.addrs .l) wraps ∧
    Writable ((locate .l (wraps.pc + 4) 0 (.predec 1) wraps).loc.addrs .l) wraps := by
  and_intros <;> first | exact readable_of (by decide) | exact writable_of (by decide) | decide

theorem witness_MoveSrWritesTheStatusWord :
    (Instr.moveSrEa (.absW 0xFFFE)).wellFormed wraps.cfg = true ∧ wraps.mem.wf = true ∧
    Writable ((locate .w (wraps.pc + 2) 0 (.absW 0xFFFE) wraps).loc.addrs .w) wraps := by
  and_intros <;> first | exact readable_of (by decide) | exact writable_of (by decide) | decide

theorem witness_ApolloBitIsSetAndClearedInAnyMode :
    user.sr.word.getLsbD 13 = false ∧ base.sr.word.getLsbD 13 = true ∧ (0x0801 : Word) ≠ 0x0800 ∧ (0xF7FE : Word) ≠ 0xF7FF := by
  decide

/-- `A0` and `A1` at addresses 16 apart. -/
def apart : State := (base.setLong (.a 0) 0x3001).setLong (.a 1) 0x3011

theorem witness_Move16CopiesSixteenBytes :
    (0 : Reg3) ≠ 1 ∧ apart.mem.wf = true ∧
    (16 ≤ (apart.long (.a 1) - apart.long (.a 0)).toNat ∧ 16 ≤ (apart.long (.a 0) - apart.long (.a 1)).toNat) ∧
    Readable (span (apart.long (.a 0)) 16) apart ∧ Writable (span (apart.long (.a 1)) 16) apart ∧
    Readable (span 0x3011 16) apart ∧ Writable (span (apart.long (.a 0)) 16) apart ∧
    ((0x3010 : Addr) ≠ apart.long (.a 0) ∧ ((0x3010 : Addr) - apart.long (.a 0)).toNat < 16) := by
  and_intros <;> first | exact readable_of (by decide) | exact writable_of (by decide) | decide

theorem witness_MovecReadsPcrAndCounters :
    ((0x00E : BitVec 12), (·.mwr)) ∈ counterTable ∧ (0x80A : BitVec 12) ≠ 0x809 ∧
    (0x810 : BitVec 12) ≠ 0x808 ∧ ∀ e ∈ counterTable, (0x810 : BitVec 12) ≠ e.1 := by
  simp [counterTable]

theorem witness_MovecWritesPcrInSupervisorModeOnly :
    user.sr.word.getLsbD 13 = false ∧ base.sr.word.getLsbD 13 = true ∧
    (base.long (rn4 0)).extractLsb' 2 4 = 0#4 ∧ ((base.setLong (.d 0) 0x20).long (rn4 0)).extractLsb' 2 4 ≠ 0#4 ∧
    (0x809 : BitVec 12) ≠ 0x808 ∧ (0x807 : BitVec 12) ≠ 0x808 ∧ ∀ e ∈ counterTable, (0x807 : BitVec 12) ≠ e.1 := by
  refine ⟨by decide, by decide, by decide, by decide, by decide, by decide, ?_⟩
  simp [counterTable]

/-- The operand of the pair moves at `$FFFFFFFC`, whose second datum lies at 0. -/
theorem witness_Move2MovesTwoRegisters :
    (locate .l (wraps.pc + 4) 0 (.ind 0) wraps).loc = .mem 0xFFFFFFFC ∧ wraps.mem.wf = true ∧
    (Instr.move2 .l false 7 15 (.ind 0)).wellFormed wraps.cfg = true ∧ (Instr.move2 .l true 8 8 (.ind 0)).wellFormed wraps.cfg = true ∧
    Readable (span 0xFFFFFFFC 4) wraps ∧ Readable (span (0xFFFFFFFC + 4) 4) wraps ∧
    Writable (span 0xFFFFFFFC 4) wraps ∧ Writable (span (0xFFFFFFFC + 4) 4) wraps := by
  and_intros <;> first | exact readable_of (by decide) | exact writable_of (by decide) | decide

theorem witness_OldMove2ZeroExtendsAnEvenPair :
    (locate .w (others.pc + 4) 0 (.absW 0xFFFE) others).loc = .mem 0xFFFFFFFE ∧ others.mem.wf = true ∧
    (Instr.move2Old .w false 14 (.absW 0xFFFE)).wellFormed others.cfg = true ∧
    (Instr.move2Old .w true 0 (.absW 0xFFFE)).wellFormed others.cfg = true ∧
    Readable (span 0xFFFFFFFE 2) others ∧ Readable (span (0xFFFFFFFE + 2) 2) others ∧
    Writable (span 0xFFFFFFFE 2) others ∧ Writable (span (0xFFFFFFFE + 2) 2) others := by
  and_intros <;> first | exact readable_of (by decide) | exact writable_of (by decide) | decide

theorem witness_MovehMovesTheUpperWord :
    (locate .w (wraps.pc + 4) 0 (.ind 0) wraps).loc = .mem 0xFFFFFFFC ∧ wraps.mem.wf = true ∧
    (Instr.moveh false 15 (.ind 0)).wellFormed wraps.cfg = true ∧ (Instr.moveh true 0 (.ind 0)).wellFormed wraps.cfg = true ∧
    Readable (span 0xFFFFFFFC 2) wraps ∧ Writable (span 0xFFFFFFFC 2) wraps := by
  and_intros <;> first | exact readable_of (by decide) | exact writable_of (by decide) | decide

theorem witness_MovexReversesTheBytes :
    (Instr.movex .l false 8 (.postinc 0)).wellFormed wraps.cfg = true ∧ (Instr.movex .w true 15 (.predec 1)).wellFormed wraps.cfg = true ∧
    Readable ((locate .l (wraps.pc + 4) 0 (.postinc 0) wraps).loc.addrs .l) wraps ∧ wraps.mem.wf = true ∧
    Writable ((locate .w (wraps.pc + 4) 0 (.predec 1) wraps).loc.addrs .w) wraps := by
  and_intros <;> first | exact readable_of (by decide) | exact writable_of (by decide) | decide

theorem witness_MovsAndMovzExtendToLong :
    (Instr.movs .b (.predec 7) 7).wellFormed wraps.cfg = true ∧ (Instr.movz .w (.postinc 0) 0).wellFormed wraps.cfg = true ∧
    Readable ((locate .b (wraps.pc + 2) 0 (.predec 7) wraps).loc.addrs .b) wraps ∧
    Readable ((locate .w (wraps.pc + 2) 0 (.postinc 0) wraps).loc.addrs .w) wraps ∧
    wraps.sr.word.getLsbD 11 = true ∧ user.sr.word.getLsbD 11 = false := by
  and_intros <;> first | exact readable_of (by decide) | exact writable_of (by decide) | decide

theorem witness_Movz2ZeroExtendsTwoData :
    (locate .w (wraps.pc + 4) 0 (.absW 0xFFFE) wraps).loc = .mem 0xFFFFFFFE ∧
    (Instr.movz2 .w 0 15 (.absW 0xFFFE)).wellFormed wraps.cfg = true ∧
    Readable (span 0xFFFFFFFE 2) wraps ∧ Readable (span (0xFFFFFFFE + 2) 2) wraps ∧
    (wraps.sizedAt .w 0xFFFFFFFE).getLsbD 15 = false := by
  and_intros <;> first | exact readable_of (by decide) | exact writable_of (by decide) | decide

theorem witness_BankWithZeroFieldsIsTheInnerInstruction :
    (Instr.bank ⟨0, 3, 0, 0, 0⟩ (.fmoveEaFp .d .single (.pcDisp 0x8000) 7)).wellFormed base.cfg = true ∧
    (⟨0, 3, 0, 0, 0⟩ : BankPrefix).aa = 0 ∧ (⟨0, 3, 0, 0, 0⟩ : BankPrefix).bb = 0 := by decide

theorem witness_BankExtendsRegisterOperands :
    (let p : BankPrefix := ⟨0, 0, 0, 3, 3⟩
     ([.extub 7, .extuw 0, .clrB (.dn 7), .clrW (.dn 0), .clrL (.dn 7), .moviw 0x8000 (.dn 7), .moveBnEa 7 (.dn 7),
       .moveaEaBn (.dn 7) 7, .perm 15 15 7 7 7 7] : List Instr).all (fun i => (Instr.bank p i).wellFormed base.cfg) = true) ∧
    (Instr.bank ⟨0, 0, 0, 0, 3⟩ (.perm 15 0 0 0 0 0)).wellFormed base.cfg = true ∧ base.sr.word.getLsbD 11 = true ∧
    (Instr.bank ⟨0, 0, 0, 3, 0⟩ (.extub 7)).wellFormed base.cfg = false := by decide

/-- The operand hypothesis of PaddAndPsubWorkLaneByLane, PcmpWritesAMaskInEachLane, PmaxAndPminPickTheLane,
PmulKeepsItsPartOfTheProduct, PmulaBlendsAndPavgbAverages, LogicalAmmxWorksBitByBit and
ShiftsTransposesAndLookupsPlaceEachBit (`AmmxTo`), at an operand that wraps. -/
theorem witness_AmmxOperands :
    Readable ((veaAt (.postinc (.a 0)) wraps).loc.addrs .q) wraps ∧ (30 : Reg5).getLsbD 0 = false := by
  and_intros <;> first | exact readable_of (by decide) | exact writable_of (by decide) | decide

theorem witness_LoadAndLoadiLoadTheOperand :
    ([0, 7, 8, 15, 16, 23, 40, 63, 64, 0x8000000000000028] : List QWord).all
      (fun v => (sixBitReg (((wraps.setQuad (.d 1) v).quad (.d 1)).toNat % 64)).isSome) = true ∧
    ([24, 39, 88] : List QWord).all
      (fun v => (sixBitReg (((wraps.setQuad (.d 1) v).quad (.d 1)).toNat % 64)).isNone) = true ∧
    Readable ((veaAt (.postinc (.a 0)) wraps).loc.addrs .q) wraps := by
  and_intros <;> first | exact readable_of (by decide) | exact writable_of (by decide) | decide

theorem witness_PairInstructionsWriteBothRegisters :
    (0 : Reg5).getLsbD 0 = false ∧ (30 : Reg5).getLsbD 0 = false ∧
    Readable ((veaAt (.predec (.a 1)) { wraps with regions := [Region.all] }).loc.addrs .q)
      { wraps with regions := [Region.all] } := by
  and_intros <;> first | exact readable_of (by decide) | exact writable_of (by decide) | decide

theorem witness_QuadStoresWriteTheirValue :
    wraps.mem.wf = true ∧ (Instr.store 1 (.postinc (.a 0))).wellFormed wraps.cfg = true ∧
    Writable ((veaAt (.postinc (.a 0)) wraps).loc.addrs .q) wraps ∧
    sixBitReg ((wraps.quad (.d 1)).toNat % 64) = some (.d 0) ∧
    sixBitReg (((wraps.setQuad (.d 1) 39).quad (.d 1)).toNat % 64) = none := by
  and_intros <;> first | exact readable_of (by decide) | exact writable_of (by decide) | decide

/-- A step at STORE D1,d16(pc) and at STOREM3 D1,#3,#imm.W meets what the refused destinations ask. -/
theorem witness_StepRefusesForm :
    Vea.readOnly (.pcDisp 0x10) = true ∧ Vea.readOnly (.immW 0) = true ∧
    (let s := base.loadText 0 [0xFE3A, 0x1004, 0x0010]
     s.pc.getLsbD 0 = false ∧ s.fetch = [0xFE3A, 0x1004, 0x0010] ∧ (0xFE3A : Word).extractLsb' 12 4 = 0xF#4 ∧
       decode s.cfg [0xFE3A, 0x1004, 0x0010] = .ok (.store 1 (.pcDisp 0x10)) []) ∧
    (let s := ({ base with cfg := otherConfig }).loadText 0 [0xFF3C, 0x133F, 0x0000]
     s.pc.getLsbD 0 = false ∧ s.fetch = [0xFF3C, 0x133F, 0x0000] ∧ (0xFF3C : Word).extractLsb' 12 4 = 0xF#4 ∧
       decode s.cfg [0xFF3C, 0x133F, 0x0000] = .ok (.storem3 1 3 0 (.immW 0)) []) ∧
    otherConfig.storem3 = some 0x3F := by decide

/-- The masked stores at 12, whose last four bytes are no data addresses and not selected. -/
theorem witness_MaskedStoresWriteExactlyTheSelectedBytes :
    (let s := ({ others.setLong (.d 2) 4 with cfg := otherConfig })
     (Instr.storec 1 2 (.absW 12)).wellFormed s.cfg = true ∧ s.mem.wf = true ∧ (veaAt (.absW 12) s).loc = .mem 12 ∧
     ∀ j : Nat, j < 8 → ((j : Int) < (s.long (.d 2)).toInt) →
       s.inData (12 + BitVec.ofNat 32 j) = true ∧ s.inText (12 + BitVec.ofNat 32 j) = false) ∧
    ([.storeilm 1 2 (.reg 31), .storem 1 2 (.reg 31), .storem3 1 0 3 (.reg 31), .storem3 1 1 0 (.reg 31),
      .storem3 1 2 0 (.reg 31), .storem3 1 3 0 (.reg 31)] : List Instr).all (fun i => i.wellFormed otherConfig) = true ∧
    (∀ ea, (veaAt (.reg 31) others).loc ≠ .mem ea) := by
  refine ⟨by decide, by decide, fun ea h => ?_⟩
  cases h

theorem witness_DisabledFloatAndTexAreRefused :
    isFloat (.fdbccL 0 0 1) = true ∧ isFloat (.fmoverz .l 0 (.dn 0)) = true ∧
    (Instr.bank ⟨0, 1, 0, 3, 1⟩ (.fmoverz .l 0 (.dn 0))).wellFormed base.cfg = true ∧ (base.setPcr ⟨false, false, true, false⟩).pcr.dfp = true := by decide

theorem witness_FdbccCountsALongDown :
    base.pcr.dfp = false ∧ (1 : Word).getLsbD 0 = true ∧ base.fpcc.nan = false ∧ (base.setFpcc ⟨false, false, false, true⟩).fpcc.nan = true ∧
    ((15 : BitVec 6).toNat < 16) ∧ ((31 : BitVec 6).toNat < 32) ∧ (32 ≤ (32 : BitVec 6).toNat) ∧ (16 ≤ (16 : BitVec 6).toNat) := by
  decide

theorem witness_FmoveLoadsTheConvertedOperand :
    wraps.pcr.dfp = false ∧ (RoundPrec.double ≠ .single) ∧
    (Instr.fmoveEaFp .d .double (.postinc 0) 7).wellFormed wraps.cfg = true ∧
    Readable ((locate FpFmt.d.size (wraps.pc + 4) 0 (.postinc 0) wraps).loc.addrs FpFmt.d.size) wraps ∧
    (Instr.floadi ⟨0, 1, 0, 0, 0⟩ .b .default 7 7).wellFormed wraps.cfg = true ∧
    (Instr.floadi ⟨0, 1, 0, 3, 3⟩ .b .default 7 7).wellFormed wraps.cfg = true := by
  and_intros <;> first | exact readable_of (by decide) | exact writable_of (by decide) | decide

theorem witness_FmoveRoundsToSinglePrecision :
    wraps.pcr.dfp = false ∧ (Instr.fmoveEaFp .d .single (.postinc 0) 7).wellFormed wraps.cfg = true ∧
    Readable ((locate FpFmt.d.size (wraps.pc + 4) 0 (.postinc 0) wraps).loc.addrs FpFmt.d.size) wraps ∧
    (Instr.floadi ⟨0, 1, 0, 3, 3⟩ .s .single 7 7).wellFormed wraps.cfg = true := by
  and_intros <;> first | exact readable_of (by decide) | exact writable_of (by decide) | decide

theorem witness_FmoveStoresTheConvertedRegister :
    wraps.pcr.dfp = false ∧ wraps.mem.wf = true ∧ (Instr.fmoveFpEa .d 7 (.postinc 0)).wellFormed wraps.cfg = true ∧
    Writable ((locate FpFmt.d.size (wraps.pc + 4) 0 (.postinc 0) wraps).loc.addrs FpFmt.d.size) wraps ∧
    (Instr.fstorei ⟨0, 1, 0, 3, 3⟩ .s 7 7).wellFormed wraps.cfg = true := by
  and_intros <;> first | exact readable_of (by decide) | exact writable_of (by decide) | decide

theorem witness_FmoverzTruncatesTowardZero :
    wraps.pcr.dfp = false ∧ wraps.mem.wf = true ∧ (Instr.fmoverz .l 7 (.predec 1)).wellFormed wraps.cfg = true ∧
    (Instr.fmoveurz .b 7 (.predec 7)).wellFormed wraps.cfg = true ∧
    Writable ((locate .l (wraps.pc + 4) 0 (.predec 1) wraps).loc.addrs .l) wraps ∧
    Writable ((locate .b (wraps.pc + 4) 0 (.predec 7) wraps).loc.addrs .b) wraps ∧
    (Instr.bank ⟨0, 1, 0, 3, 3⟩ (.fmoverz .l 7 (.dn 7))).wellFormed wraps.cfg = true ∧
    (Instr.bank ⟨0, 1, 0, 3, 3⟩ (.fmoveurz .b 7 (.dn 7))).wellFormed wraps.cfg = true := by
  and_intros <;> first | exact readable_of (by decide) | exact writable_of (by decide) | decide

end Sys2Proof.Tests
end

section
/-!
PROOF. EXTUB.L and EXTUW.L (rules R152, R153). Writes of the low long of a register, words of line 0100 that end in a
register number, and from these the statement about the two instructions.
-/

namespace Sys2Proof.Machine

/-! ### Writes of the low long of a register -/

/-- A write of a long leaves bits 63-32 as `UPPER32` says (rule R24). -/
theorem setLong_upperAsConfigured (s : State) (r : RegName) (v : Long) :
    UpperAsConfigured s (s.setLong r v) r := by
  have stored : (s.setLong r v).reg r = ⟨s.upperAfter (s.reg r).hi, v⟩ := State.reg_setReg_self ..
  constructor <;> intro configured <;> simp [stored, State.upperAfter, configured]

/-- An instruction that is a write of one register's long, a write of SR and the step of `pc` past its `n` bytes. -/
theorem writesLong_of_setLong (i : Instr) (s : State) (l : Located) (r : RegName) (v : Long) (sr : StatusReg) (n : Nat)
    (h : exec i s = .next (((s.setLong r v).setSr sr).advance n)) : WritesLong i s l [] r v sr n := by
  refine ⟨_, h, by simp, by simp, by simp, ((frame_setLong s r v).setSr sr).advance n, ?_, by simp⟩
  exact setLong_upperAsConfigured s r v

/-! ### The meaning of EXTUB.L and EXTUW.L -/

/-- The low `k` bits of a register are those of its low long. -/
theorem quad_low_bits (s : State) (r : RegName) (k : Nat) (hk : k ≤ 32) :
    (s.quad r).extractLsb' 0 k = (s.long r).extractLsb' 0 k := by
  rw [State.quad, Reg64.quad, State.long, BitVec.extractLsb'_append_eq_of_add_le (by omega)]

/-- The low long of a zero-extended value is that value zero-extended to a long. -/
theorem low32_setWidth {k : Nat} (x : BitVec k) : low32 (x.setWidth 64) = x.setWidth 32 := by
  apply BitVec.eq_of_getLsbD_eq
  intro i hi
  simp [low32, hi, show i < 64 by omega]

theorem low32_lowByte (s : State) (r : RegName) :
    low32 (lowBytes .b (s.quad r)) = ((s.long r).extractLsb' 0 8).setWidth 32 := by
  rw [lowBytes, quad_low_bits s r 8 (by omega), low32_setWidth]

theorem low32_lowWord (s : State) (r : RegName) :
    low32 (lowBytes .w (s.quad r)) = ((s.long r).extractLsb' 0 16).setWidth 32 := by
  rw [lowBytes, quad_low_bits s r 16 (by omega), low32_setWidth]

/-- An instruction whose meaning is `extendUnsigned`, alone or in a bundle, writes the extended value `v` and its flags
`- 0 * 0 0` (rules R33, R152, R153). -/
theorem writesLong_of_extendUnsigned (i : Instr) (sz : Size) (p : Prefix) (dn : Reg3) (s : State) (l : Located) (v : Long)
    (meaning : exec i s = extendUnsigned sz p dn s)
    (value : low32 (lowBytes sz (s.quad (.d (banked p.bb dn)))) = v) :
    WritesLong i s l [] (.d (banked p.bb dn)) v { s.sr with n := false, z := v == 0, v := false, c := false }
      (p.bytes + 2) := by
  subst value
  exact writesLong_of_setLong i s l _ _ _ _ meaning

theorem exec_extub (dn : Reg3) (s : State) : exec (.extub dn) s = extendUnsigned .b .none dn s := rfl

theorem exec_extuw (dn : Reg3) (s : State) : exec (.extuw dn) s = extendUnsigned .w .none dn s := rfl

end Sys2Proof.Machine

namespace Sys2Proof

open Decode

/-! ### Words of line 0100, and words that end in a register number -/

/-- A word of line 0100 is no BANK word, and `line4` decodes it (rules R107, R114). -/
theorem decode_of_line4 (cfg : Config) (w : Word) (ws : List Word) (h : bits w 12 4 = 0x4#4) :
    decode cfg (w :: ws) = line4 w ws := by
  simp [decode, isBank, single, h]

/-- A word with a register number in bits 2-0 has the fields above them of the word without it. -/
theorem bits_or_reg (base : Word) (dn : Reg3) (lo n : Nat) (h : 3 ≤ lo) :
    bits (base ||| dn.setWidth 16) lo n = bits base lo n := by
  apply BitVec.eq_of_getLsbD_eq
  intro i hi
  simp [BitVec.getLsbD_of_ge dn (lo + i) (by omega)]

/-- Bits 2-0 of a word whose own bits 2-0 are zero are the register number put there. -/
theorem reg_bits_or_reg (base : Word) (dn : Reg3) (h : bits base 0 3 = 0#3) :
    bits (base ||| dn.setWidth 16) 0 3 = dn := by
  rw [bits, BitVec.extractLsb'_or, show base.extractLsb' 0 3 = 0#3 from h]
  simp [← BitVec.setWidth_eq_extractLsb']

/-- A register number in bits 2-0 makes no word whose bits 15-3 are others. -/
theorem or_reg_ne (base c : Word) (dn : Reg3) (h : bits base 3 13 ≠ bits c 3 13) : base ||| dn.setWidth 16 ≠ c := by
  intro e
  exact h (by rw [← e, bits_or_reg base dn 3 13 (by omega)])

/-- `$4BC0 | rrr` is EXTUB.L (rule R152). -/
theorem decode_extub (cfg : Config) (dn : Reg3) (ws : List Word) :
    decode cfg ((0x4BC0#16 ||| dn.setWidth 16) :: ws) = .ok (.extub dn) ws := by
  rw [decode_of_line4 _ _ _ (bits_or_reg _ dn 12 4 (by omega))]
  simp [line4, bits_or_reg, reg_bits_or_reg, bits]

/-- `$4DC0 | rrr` is EXTUW.L (rule R153). -/
theorem decode_extuw (cfg : Config) (dn : Reg3) (ws : List Word) :
    decode cfg ((0x4DC0#16 ||| dn.setWidth 16) :: ws) = .ok (.extuw dn) ws := by
  rw [decode_of_line4 _ _ _ (bits_or_reg _ dn 12 4 (by omega))]
  simp [line4, bits_or_reg, reg_bits_or_reg, bits]

/-- Size codes 00 and 11 of the pattern, `$49C0 | rrr` and `$4FC0 | rrr`, are no row (rules R152, R153). -/
theorem decode_extu_otherSize (cfg : Config) (base : Word) (dn : Reg3) (ws : List Word)
    (h : base = 0x49C0#16 ∨ base = 0x4FC0#16) :
    decode cfg ((base ||| dn.setWidth 16) :: ws) = .reject .noRow := by
  rcases h with rfl | rfl
  all_goals
    rw [decode_of_line4 _ _ _ (bits_or_reg _ dn 12 4 (by omega))]
    simp [line4, bits_or_reg, or_reg_ne, bits]

end Sys2Proof

namespace Sys2Proof.Machine

/-- Settles O23, from the meaning of `extendUnsigned` for both sizes and the fields of the four words. -/
theorem extuZeroExtendsToLong : Obligations.ExtuZeroExtendsToLong := by
  unfold Obligations.ExtuZeroExtendsToLong
  intro dn s
  refine ⟨?byte, ?word, fun cfg ws => ⟨decode_extub cfg dn ws, decode_extuw cfg dn ws,
    decode_extu_otherSize cfg _ dn ws (.inl rfl), decode_extu_otherSize cfg _ dn ws (.inr rfl)⟩⟩
  case byte => exact writesLong_of_extendUnsigned _ .b .none dn s _ _ (exec_extub dn s) (low32_lowByte s _)
  case word => exact writesLong_of_extendUnsigned _ .w .none dn s _ _ (exec_extuw dn s) (low32_lowWord s _)

end Sys2Proof.Machine
end

section
/-!
PROOF. The AMMX words (rules R91, R100 to R106): the fields of a word written as a concatenation, and what the
decoder answers on the words of a class L, a class R4 and a VPERM instruction.
-/

namespace Sys2Proof

open Decode Encode Machine

/-! ### Fields of a word -/

/-- A field of a field is a field of the word. -/
theorem bits_bits (w : Word) (lo n k len : Nat) (h : k + len ≤ n) :
    (bits w lo n).extractLsb' k len = bits w (lo + k) len := by
  apply BitVec.eq_of_getLsbD_eq
  intro i hi
  simp [hi, show k + i < n by omega, Nat.add_assoc]

/-- The number of a register of 32 from its top bit in word 1 and the others in word 2 (rule R101). -/
theorem reg5_of_parts (r : Reg5) : r.extractLsb' 4 1 ++ r.extractLsb' 0 4 = r :=
  BitVec.extractLsb'_append_extractLsb' (w := 1) (len := 4)

/-- The fields of word 1 of an AMMX instruction with a `<vea>` (rule R100). -/
theorem ammxWord1_fields (a b d : BitVec 1) (mode reg : BitVec 3) :
    let w : Word := 0x7F#7 ++ a ++ b ++ d ++ mode ++ reg
    bits w 9 7 = 0x7F#7 ∧ bits w 8 1 = a ∧ bits w 7 1 = b ∧ bits w 6 1 = d ∧ bits w 3 3 = mode ∧ bits w 0 3 = reg := by
  and_intros
  all_goals
    simp (disch := omega) [bits, BitVec.extractLsb'_append_eq_of_le, BitVec.extractLsb'_append_eq_of_add_le,
      -Nat.reduceAdd]

/-- The fields of word 2 of an AMMX instruction (rule R100). -/
theorem ammxWord2_fields (b d : BitVec 4) (op : Byte) :
    let w : Word := b ++ d ++ op
    bits w 12 4 = b ∧ bits w 8 4 = d ∧ bits w 0 8 = op := by
  and_intros
  all_goals
    simp (disch := omega) [bits, BitVec.extractLsb'_append_eq_of_le, BitVec.extractLsb'_append_eq_of_add_le,
      -Nat.reduceAdd]

/-- The fields of word 1 of a class R4 instruction (rules R91, R105). -/
theorem groupWord1_fields (top d : BitVec 1) (low : BitVec 2) :
    let w : Word := 0x7F#7 ++ top ++ 0#1 ++ d ++ 0#2 ++ low ++ 0#2
    bits w 9 7 = 0x7F#7 ∧ bits w 8 1 = top ∧ bits w 7 1 = 0#1 ∧ bits w 6 1 = d ∧ bits w 4 2 = 0#2 ∧ bits w 2 2 = low ∧
      bits w 0 2 = 0#2 := by
  and_intros
  all_goals
    simp (disch := omega) [bits, BitVec.extractLsb'_append_eq_of_le, BitVec.extractLsb'_append_eq_of_add_le,
      -Nat.reduceAdd]

/-- The fields of word 1 of VPERM (rule R310). -/
theorem vpermWord1_fields (a b d : BitVec 1) :
    let w : Word := 0x7F#7 ++ a ++ b ++ d ++ 0x3F#6
    bits w 9 7 = 0x7F#7 ∧ bits w 8 1 = a ∧ bits w 7 1 = b ∧ bits w 6 1 = d ∧ bits w 0 6 = 0x3F#6 := by
  and_intros
  all_goals
    simp (disch := omega) [bits, BitVec.extractLsb'_append_eq_of_le, BitVec.extractLsb'_append_eq_of_add_le,
      -Nat.reduceAdd]

/-- The fields of word 2 of VPERM, bits 7-4 among them (rule R310). -/
theorem vpermWord2_fields (b d z a : BitVec 4) :
    let w : Word := b ++ d ++ z ++ a
    bits w 12 4 = b ∧ bits w 8 4 = d ∧ bits w 4 4 = z ∧ bits w 0 4 = a := by
  and_intros
  all_goals
    simp (disch := omega) [bits, BitVec.extractLsb'_append_eq_of_le, BitVec.extractLsb'_append_eq_of_add_le,
      -Nat.reduceAdd]

/-- A single bit is a field of length 1. -/
theorem bit_eq_msb_bits (w : Word) (i : Nat) : bit w i = (bits w i 1).msb := by
  simp [BitVec.msb_eq_getLsbD_last]

/-! ### The AMMX unit -/

/-- Words with `1111 111` in bits 15-9 go to the AMMX unit (rules R100, R109). -/
theorem decode_of_ammx (cfg : Config) (w : Word) (ws : List Word) (h : bits w 9 7 = 0x7F#7) :
    decode cfg (w :: ws) = ammx cfg w ws := by
  have line : bits w 12 4 = 0xF#4 := by rw [← bits_bits w 9 7 3 4 (by omega), h]; rfl
  have coprocessor : bits w 9 3 = 7#3 := by rw [← bits_bits w 9 7 0 3 (by omega), h]; rfl
  have other (lo k : Nat) (x : BitVec (k + 3)) (hk : lo + k = 9) (hx : x.extractLsb' k 3 ≠ 7#3) :
      bits w lo (k + 3) ≠ x := by
    rintro rfl
    exact hx (by rw [bits_bits w lo (k + 3) k 3 (by omega), hk, coprocessor])
  have fpu : bits w 6 6 ≠ 0x08#6 := other 6 3 _ rfl (by decide)
  have fdbcc : bits w 3 9 ≠ 0x049#9 := other 3 6 _ rfl (by decide)
  have move16 : bits w 6 6 ≠ 0x18#6 := other 6 3 _ rfl (by decide)
  simp [decode, isBank, single, lineF, line, coprocessor, fpu, fdbcc, move16]

/-- No `<vea>` has mode 111 with register 111, where VPERM is (rules R103, R310). -/
theorem vea_ne_vperm (vea : Vea) (hm : veaMode vea = 7#3) : veaReg vea ≠ 7#3 := by
  cases vea with
  | reg k =>
    have h : ∀ k : Reg5, veaMode (.reg k) ≠ 7#3 := by decide
    exact absurd hm (h k)
  | _ => revert hm; simp [veaMode, veaReg]

/-- STOREM3's opcode byte is none that the spec assigns (rule R296). -/
theorem storem3_ne_assigned (cfg : Config) (op : Byte) (h : op ∈ ammxOpcodes) : cfg.storem3 ≠ some op := by
  unfold Config.storem3
  cases cfg.storem3Opcode with
  | none => simp
  | some x =>
    by_cases same : x = op
    · simp [same, h]
    · dsimp only
      split <;> simp [same]

/-- Bits 7-6 of every assigned opcode byte are 0 (rule R101). -/
theorem assigned_top_bits (op : Byte) (h : op ∈ ammxOpcodes) : op.extractLsb' 6 2 = 0#2 := by
  have all : ∀ x ∈ ammxOpcodes, x.extractLsb' 6 2 = 0#2 := by decide
  exact all op h

/-- The words of an instruction with a `<vea>` decode to the row of its opcode byte (rules R91, R101, R106). -/
theorem ammxWords_of_veaInstr (i : Instr) (op : Byte) (vea : Vea) (b d : Reg5) (assigned : op ∈ ammxOpcodes)
    (hasVea : op ∉ [0x02#8, 0x03#8, 0x2A#8, 0x3E#8]) (row : veaInstr op vea b d = .ok i) : AmmxWords i op vea b d := by
  intro cfg ws
  obtain ⟨unit, fa, fb, fd, fmode, freg⟩ :=
    ammxWord1_fields (veaA vea) (b.extractLsb' 4 1) (d.extractLsb' 4 1) (veaMode vea) (veaReg vea)
  obtain ⟨fb2, fd2, fop⟩ := ammxWord2_fields (b.extractLsb' 0 4) (d.extractLsb' 0 4) op
  rw [decode_of_ammx _ _ _ unit]
  generalize 0x7F#7 ++ veaA vea ++ b.extractLsb' 4 1 ++ d.extractLsb' 4 1 ++ veaMode vea ++ veaReg vea = w at *
  generalize b.extractLsb' 0 4 ++ d.extractLsb' 0 4 ++ op = w2 at *
  have notVperm : bits w 0 6 ≠ 0x3F#6 := by
    intro h
    refine vea_ne_vperm vea ?_ ?_
    · rw [← fmode, ← bits_bits w 0 6 3 3 (by omega), h]; rfl
    · rw [← freg, ← bits_bits w 0 6 0 3 (by omega), h]; rfl
  have m : bits w2 6 2 = 0#2 := by rw [← bits_bits w2 0 8 6 2 (by omega), fop, assigned_top_bits op assigned]
  simp only [List.mem_cons, List.not_mem_nil, or_false, not_or] at hasVea
  obtain ⟨notHi, notLo, notMinterm, notTex⟩ := hasVea
  simp only [ammx, withWord, bit_eq_msb_bits, notVperm, m, notHi, notLo, notMinterm, notTex, fa, fb, fd, fmode, freg,
    fb2, fd2, fop, reg5_of_parts, storem3_ne_assigned cfg op assigned, false_and, or_self, ne_eq, not_true_eq_false,
    if_false]
  rw [withVea_veaWords, row]

/-- The words of a class R4 instruction decode to the row of its opcode byte (rules R91, R105, R106). -/
theorem groupWords_of_groupInstr (op : Byte) (grp : BitVec 3) (d : Reg5)
    (hop : op = 0x02#8 ∨ op = 0x03#8 ∨ op = 0x2A#8) : GroupWords (groupInstr op grp d) op grp d := by
  intro cfg ws
  obtain ⟨unit, ftop, fb, fd, fmode, flow, freg⟩ :=
    groupWord1_fields (grp.extractLsb' 2 1) (d.extractLsb' 4 1) (grp.extractLsb' 0 2)
  obtain ⟨fb2, fd2, fop⟩ := ammxWord2_fields 0#4 (d.extractLsb' 0 4) op
  rw [decode_of_ammx _ _ _ unit]
  generalize 0x7F#7 ++ grp.extractLsb' 2 1 ++ 0#1 ++ d.extractLsb' 4 1 ++ 0#2 ++ grp.extractLsb' 0 2 ++ 0#2 = w at *
  generalize 0#4 ++ d.extractLsb' 0 4 ++ op = w2 at *
  have notVperm : bits w 0 6 ≠ 0x3F#6 := by
    intro h
    have ones : bits w 0 2 = 3#2 := by rw [← bits_bits w 0 6 0 2 (by omega), h]; rfl
    exact absurd (freg.symm.trans ones) (by decide)
  have notTex : op ≠ 0x3E#8 := by rintro rfl; simp at hop
  have m : bits w2 6 2 = 0#2 := by
    rw [← bits_bits w2 0 8 6 2 (by omega), fop]
    rcases hop with rfl | rfl | rfl <;> rfl
  have group : grp.extractLsb' 2 1 ++ grp.extractLsb' 0 2 = grp :=
    BitVec.extractLsb'_append_extractLsb' (w := 1) (len := 2)
  simp [ammx, withWord, notVperm, notTex, m, hop, ftop, fb, fd, fmode, flow, freg, fb2, fd2, fop, group, reg5_of_parts]

/-- The words of VPERM decode to it when bits 7-4 of word 2 are 0, and are refused otherwise (rule R310). -/
theorem decode_vperm (cfg : Config) (a b d : Reg5) (z : BitVec 4) (hi lo : Word) (ws : List Word) :
    decode cfg ((0x7F#7 ++ a.extractLsb' 4 1 ++ b.extractLsb' 4 1 ++ d.extractLsb' 4 1 ++ 0x3F#6) ::
      (b.extractLsb' 0 4 ++ d.extractLsb' 0 4 ++ z ++ a.extractLsb' 0 4) :: hi :: lo :: ws) =
        if z = 0 then .ok (.vperm a b d (hi ++ lo)) ws else .reject .reservedField := by
  obtain ⟨unit, fa, fb, fd, fones⟩ :=
    vpermWord1_fields (a.extractLsb' 4 1) (b.extractLsb' 4 1) (d.extractLsb' 4 1)
  obtain ⟨fb2, fd2, fz, fa2⟩ := vpermWord2_fields (b.extractLsb' 0 4) (d.extractLsb' 0 4) z (a.extractLsb' 0 4)
  rw [decode_of_ammx _ _ _ unit]
  simp [ammx, withWord, withLong, fa, fb, fd, fones, fb2, fd2, fz, fa2, reg5_of_parts]

end Sys2Proof
end

section
/-!
PROOF. The AMMX instructions with a register destination (rules R105, R220 to R223), PAND, PANDN, POR, PEOR and BSEL
(rules R229, R249, R250, R265, R287), and LSLQ, LSRQ, C2P, MINTERM and VPERM (rules R231, R236, R237, R239, R310): what
the classes leave unchanged, then each bit of the result.
-/

namespace Sys2Proof.Machine

/-! ### A quad written to a data register, and the class L -/

/-- Forming a `<vea>` steps no data register (rule R223). -/
theorem data_notMem_steppedVea (vea : Vea) (k : Reg5) : RegName.d k ∉ steppedVea vea := by
  cases vea with
  | postinc r => cases r <;> simp [steppedVea, baseReg]
  | predec r => cases r <;> simp [steppedVea, baseReg]
  | _ => simp [steppedVea]

theorem veaAt_quad_data (vea : Vea) (s : State) (k : Reg5) : (veaAt vea s).st.quad (.d k) = s.quad (.d k) :=
  congrArg Reg64.quad ((locateVea_frame _ vea s).reg _ (data_notMem_steppedVea vea k))

/-- The operand of a class L instruction is read in the state that forming its address leaves (rules R98, R105). -/
theorem classL_eq (f : QWord → QWord → QWord) (vea : Vea) (b d : Reg5) (s : State)
    (readable : Readable ((veaAt vea s).loc.addrs .q) s) :
    classL f vea b d s = .next (((veaAt vea s).st.setQuad (.d d)
      (f ((veaAt vea s).loc.value .q s) (s.quad (.d b)))).advance (ammxBytes vea)) := by
  rw [classL, veaAt_quad_data, show readLoc .q (veaAt vea s) = _ from readLoc_locateVea _ vea s readable]
  rfl

/-- BSEL reads its operand as class L does; its result needs the old `d` too (rule R229). -/
theorem execBsel_eq (vea : Vea) (b d : Reg5) (s : State) (readable : Readable ((veaAt vea s).loc.addrs .q) s) :
    execBsel vea b d s = .next (((veaAt vea s).st.setQuad (.d d)
      (((veaAt vea s).loc.value .q s &&& s.quad (.d b)) ||| (s.quad (.d d) &&& ~~~(s.quad (.d b))))).advance
        (ammxBytes vea)) := by
  rw [execBsel, veaAt_quad_data, veaAt_quad_data,
    show readLoc .q (veaAt vea s) = _ from readLoc_locateVea _ vea s readable]
  rfl

/-- What a quad written to `d` after forming a `<vea>` leaves: the quad in `d`, SR, `pc` past the instruction, and
every other register but the stepped one (rules R21, R220, R223). -/
theorem setQuad_after_veaAt (vea : Vea) (d : Reg5) (s : State) (v : QWord) :
    let t := ((veaAt vea s).st.setQuad (.d d) v).advance (ammxBytes vea)
    t.quad (.d d) = v ∧ t.sr = s.sr ∧ t.pc = s.pc + BitVec.ofNat 32 (4 + 2 * vea.extWords) ∧
      Frame (.d d :: steppedVea vea) [] s t ∧ ∀ r ∈ steppedVea vea, t.long r = (veaAt vea s).st.long r := by
  refine ⟨by simp, by simp [veaAt], by simp [veaAt, ammxBytes], ?frame, fun r hr => ?stepped⟩
  case frame =>
    refine (((locateVea_frame _ vea s).trans (frame_setQuad _ (.d d) v)).advance _).mono (fun r hr => ?_) (by simp)
    simpa [or_comm] using hr
  case stepped =>
    have ne : r ≠ .d d := by
      rintro rfl
      exact data_notMem_steppedVea vea d hr
    exact congrArg Reg64.lo (State.reg_setQuad_ne _ (.d d) r v ne)

/-- An instruction whose meaning is a class L operation writes the function of its operands and nothing else (rules
R105, R220). -/
theorem ammxTo_of_classL (i : Instr) (f : QWord → QWord → QWord) (vea : Vea) (b d : Reg5)
    (P : QWord → QWord → QWord → Prop) (meaning : ∀ s, exec i s = classL f vea b d s)
    (result : ∀ x y, P x y (f x y)) : AmmxTo i vea b d P := by
  intro s readable
  obtain ⟨value, kept⟩ := setQuad_after_veaAt vea d s (f ((veaAt vea s).loc.value .q s) (s.quad (.d b)))
  exact ⟨_, (meaning s).trans (classL_eq f vea b d s readable), by rw [value]; exact result _ _, kept⟩

/-- An instruction that only writes the quad of `d` and steps `pc` past its `n` bytes. -/
theorem setQuad_advance_kept (s : State) (d : Reg5) (v : QWord) (n : Nat) :
    let t := (s.setQuad (.d d) v).advance n
    t.sr = s.sr ∧ t.pc = s.pc + BitVec.ofNat 32 n ∧ Frame [.d d] [] s t :=
  ⟨by simp, by simp, (frame_setQuad s (.d d) v).advance n⟩

/-! ### The meaning of each instruction -/

theorem exec_pand (vea : Vea) (b d : Reg5) (s : State) :
    exec (.pand vea b d) s = classL (fun x y => x &&& y) vea b d s := rfl

theorem exec_pandn (vea : Vea) (b d : Reg5) (s : State) :
    exec (.pandn vea b d) s = classL (fun x y => ~~~x &&& y) vea b d s := rfl

theorem exec_por (vea : Vea) (b d : Reg5) (s : State) :
    exec (.por vea b d) s = classL (fun x y => x ||| y) vea b d s := rfl

theorem exec_peor (vea : Vea) (b d : Reg5) (s : State) :
    exec (.peor vea b d) s = classL (fun x y => x ^^^ y) vea b d s := rfl

theorem exec_bsel (vea : Vea) (b d : Reg5) (s : State) : exec (.bsel vea b d) s = execBsel vea b d s := rfl

theorem exec_lslq (vea : Vea) (b d : Reg5) (s : State) :
    exec (.lslq vea b d) s = classL (fun x y => y <<< (x.toNat % 64)) vea b d s := rfl

theorem exec_lsrq (vea : Vea) (b d : Reg5) (s : State) :
    exec (.lsrq vea b d) s = classL (fun x y => y >>> (x.toNat % 64)) vea b d s := rfl

theorem exec_c2p (vea : Vea) (d : Reg5) (s : State) :
    exec (.c2p vea d) s = classL (fun x _ => c2pVec x) vea 0 d s := rfl

theorem exec_minterm (grp : BitVec 3) (d : Reg5) (s : State) :
    exec (.minterm grp d) s = .next ((s.setQuad (.d d) (mintermVec (s.quad (groupReg grp 0)) (s.quad (groupReg grp 1))
      (s.quad (groupReg grp 2)) ((s.quad (groupReg grp 3)).extractLsb' 0 8))).advance 4) := rfl

theorem exec_vperm (a b d : Reg5) (sel : Long) (s : State) :
    exec (.vperm a b d sel) s =
      .next ((s.setQuad (.d d) (vpermVec (s.quad (.d a)) (s.quad (.d b)) sel)).advance 8) := rfl

/-! ### Bits of the results -/

/-- BSEL's function takes bit `i` from `x` where the mask is 1 and from `old` where it is 0 (rule R229). -/
theorem getLsbD_select (x m old : QWord) (i : Nat) (hi : i < 64) :
    ((x &&& m) ||| (old &&& ~~~m)).getLsbD i = if m.getLsbD i then x.getLsbD i else old.getLsbD i := by
  simp only [BitVec.getLsbD_or, BitVec.getLsbD_and, BitVec.getLsbD_not, hi, decide_true]
  cases m.getLsbD i <;> simp

/-- The byte lanes of a vector built of bytes (rule R221). -/
theorem laneB_ofBytes (f : Nat → Byte) (i : Nat) (hi : i < 8) : laneB (ofBytes f) i = f i := by
  interval_cases i
  all_goals
    simp (disch := omega) [laneB, ofBytes, BitVec.extractLsb'_append_eq_of_le,
      BitVec.extractLsb'_append_eq_of_add_le, -Nat.reduceAdd]

/-- Bit `8n + j` of a vector is bit `j` of its byte lane `7 - n`, as lanes are numbered from the top (rule R221). -/
theorem getLsbD_eq_laneB (x : QWord) (n j : Nat) (hn : n < 8) (hj : j < 8) :
    x.getLsbD (8 * n + j) = (laneB x (7 - n)).getLsbD j := by
  simp [laneB, hj, show 56 - 8 * (7 - n) = 8 * n by omega]

/-- The byte whose bits are `g 7 .. g 0`, from the top. -/
def ofEightBits (g : Nat → Bool) : Byte :=
  BitVec.ofBool (g 7) ++ BitVec.ofBool (g 6) ++ BitVec.ofBool (g 5) ++ BitVec.ofBool (g 4) ++ BitVec.ofBool (g 3) ++
    BitVec.ofBool (g 2) ++ BitVec.ofBool (g 1) ++ BitVec.ofBool (g 0)

theorem getLsbD_ofEightBits (g : Nat → Bool) (j : Nat) (hj : j < 8) : (ofEightBits g).getLsbD j = g j := by
  rw [ofEightBits]
  interval_cases j <;> simp only [BitVec.getLsbD_append] <;> simp

/-- Byte lane `i` of C2P's result is made of bit `7 - i` of each byte of the operand (rule R231). -/
theorem c2pVec_eq (a : QWord) : c2pVec a = ofBytes fun i => ofEightBits fun j => a.getLsbD (8 * j + (7 - i)) := rfl

/-- C2P transposes the 8 by 8 bits (rule R231). -/
theorem getLsbD_c2pVec (a : QWord) (n j : Nat) (hn : n < 8) (hj : j < 8) :
    (c2pVec a).getLsbD (8 * n + j) = a.getLsbD (8 * j + n) := by
  rw [getLsbD_eq_laneB _ n j hn hj, c2pVec_eq, laneB_ofBytes _ _ (by omega), getLsbD_ofEightBits _ j hj,
    show 7 - (7 - n) = n by omega]

/-- `fill p` is `p` in every bit. -/
theorem getLsbD_fill (p : Bool) (i : Nat) (hi : i < 64) : (fill p).getLsbD i = p := by
  cases p with
  | false => exact BitVec.getLsbD_zero
  | true => rw [fill, if_pos rfl, BitVec.getLsbD_allOnes, decide_eq_true hi]

/-- MINTERM looks the three source bits up in the low byte of the fourth source (rule R239). -/
theorem getLsbD_mintermVec (a b c table : QWord) (i : Nat) (hi : i < 64) :
    (mintermVec a b c (table.extractLsb' 0 8)).getLsbD i =
      table.getLsbD (4 * (a.getLsbD i).toNat + 2 * (b.getLsbD i).toNat + (c.getLsbD i).toNat) := by
  simp only [mintermVec, BitVec.getLsbD_or, BitVec.getLsbD_and, BitVec.getLsbD_not, getLsbD_fill _ i hi, hi, decide_true]
  cases a.getLsbD i <;> cases b.getLsbD i <;> cases c.getLsbD i <;> simp

/-- The quad of the chosen one of two data registers. -/
theorem quad_data_ite (s : State) (a b : Reg5) (p : Bool) :
    (if p then s.quad (.d b) else s.quad (.d a)) = s.quad (.d (if p then b else a)) := by
  cases p <;> rfl

/-! ### The two statements -/

/-- Settles O49: the four class L instructions by the bits of their functions, BSEL from its own reading of the
operand. -/
theorem logicalAmmxWorksBitByBit : Obligations.LogicalAmmxWorksBitByBit := by
  unfold Obligations.LogicalAmmxWorksBitByBit
  intro vea b d
  refine ⟨?pand, ?pandn, ?por, ?peor, ?_, ?_, ?_, ?_, ?_, ?bsel⟩
  case pand => exact ammxTo_of_classL _ _ vea b d _ (exec_pand vea b d) fun x y i _ => BitVec.getLsbD_and
  case pandn =>
    exact ammxTo_of_classL _ _ vea b d _ (exec_pandn vea b d) fun x y i hi => by
      rw [BitVec.getLsbD_and, BitVec.getLsbD_not, decide_eq_true hi, Bool.true_and]
  case por => exact ammxTo_of_classL _ _ vea b d _ (exec_por vea b d) fun x y i _ => BitVec.getLsbD_or
  case peor => exact ammxTo_of_classL _ _ vea b d _ (exec_peor vea b d) fun x y i _ => BitVec.getLsbD_xor
  case bsel =>
    intro s readable
    obtain ⟨value, kept⟩ := setQuad_after_veaAt vea d s _
    refine ⟨_, (exec_bsel vea b d s).trans (execBsel_eq vea b d s readable), fun i hi => ?_, kept⟩
    rw [value]
    exact getLsbD_select _ _ _ i hi
  all_goals exact ammxWords_of_veaInstr _ _ vea b d (by decide) (by decide) rfl

/-- Settles O50: each instruction by the bits of its function and the decoding of its words. -/
theorem shiftsTransposesAndLookupsPlaceEachBit : Obligations.ShiftsTransposesAndLookupsPlaceEachBit := by
  unfold Obligations.ShiftsTransposesAndLookupsPlaceEachBit
  refine ⟨fun vea b d => ⟨?lslq, ?lsrq, ?c2p, ?lslqWords, ?lsrqWords, ?c2pWords⟩, fun grp d s => ?minterm,
    fun cfg grp a b d z hi lo ws => ⟨?mintermWords, ?vpermWords⟩, fun a b d sel s => ?vperm⟩
  case lslq =>
    exact ammxTo_of_classL _ _ vea b d _ (exec_lslq vea b d) fun x y => by
      rw [BitVec.toNat_shiftLeft, Nat.shiftLeft_eq]
  case lsrq =>
    exact ammxTo_of_classL _ _ vea b d _ (exec_lsrq vea b d) fun x y => by
      rw [BitVec.toNat_ushiftRight, Nat.shiftRight_eq_div_pow]
  case c2p => exact ammxTo_of_classL _ _ vea 0 d _ (exec_c2p vea d) fun x _ => getLsbD_c2pVec x
  case lslqWords => exact ammxWords_of_veaInstr _ _ vea b d (by decide) (by decide) rfl
  case lsrqWords => exact ammxWords_of_veaInstr _ _ vea b d (by decide) (by decide) rfl
  case c2pWords => exact ammxWords_of_veaInstr _ _ vea 0 d (by decide) (by decide) rfl
  case mintermWords => exact groupWords_of_groupInstr 0x2A grp d (by decide) cfg ws
  case vpermWords => exact decode_vperm cfg a b d z hi lo ws
  case minterm =>
    obtain ⟨sr, pc, frame⟩ := setQuad_advance_kept s d _ 4
    refine ⟨_, exec_minterm grp d s, sr, pc, frame, fun i hi => ?_⟩
    rw [State.advance_quad, State.quad_setQuad_self]
    exact getLsbD_mintermVec _ _ _ _ i hi
  case vperm =>
    obtain ⟨sr, pc, frame⟩ := setQuad_advance_kept s d _ 8
    refine ⟨_, exec_vperm a b d sel s, sr, pc, frame, fun i hi => ?_⟩
    rw [State.advance_quad, State.quad_setQuad_self]
    exact (laneB_ofBytes _ i hi).trans (congrArg (laneB · _) (quad_data_ite s a b _))

end Sys2Proof.Machine
end

section
/-!
PROOF. PMAX and PMIN (rules R270 to R278), and PMUL88, PMULH and PMULL (rules R280 to R283): the lanes of a lane-wise
function, the larger and the smaller of two lanes, and the fields of a signed product.
-/

namespace Sys2Proof.Machine

/-! ### Lane-wise functions -/

/-- The word lanes of a vector built of words (rule R221). -/
theorem laneW_ofWords (f : Nat → Word) (i : Nat) (hi : i < 4) : laneW (ofWords f) i = f i := by
  interval_cases i
  all_goals
    simp (disch := omega) [laneW, ofWords, BitVec.extractLsb'_append_eq_of_le,
      BitVec.extractLsb'_append_eq_of_add_le, -Nat.reduceAdd]

theorem laneB_zipB (f : Byte → Byte → Byte) (x y : QWord) (i : Nat) (hi : i < 8) :
    laneB (zipB f x y) i = f (laneB x i) (laneB y i) :=
  laneB_ofBytes _ i hi

theorem laneW_zipW (f : Word → Word → Word) (x y : QWord) (i : Nat) (hi : i < 4) :
    laneW (zipW f x y) i = f (laneW x i) (laneW y i) :=
  laneW_ofWords _ i hi

/-- A class L instruction that applies `f` in each byte lane does in each lane what `f` does (rules R105, R221). -/
theorem ammxTo_of_zipB (i : Instr) (f : Byte → Byte → Byte) (vea : Vea) (b d : Reg5) (P : Byte → Byte → Byte → Prop)
    (meaning : ∀ s, exec i s = classL (zipB f) vea b d s) (result : ∀ x y, P x y (f x y)) :
    AmmxTo i vea b d (EachByte P) :=
  ammxTo_of_classL i (zipB f) vea b d _ meaning fun x y k hk => by
    rw [laneB_zipB f x y k hk]
    exact result _ _

/-- A class L instruction that applies `f` in each word lane does in each lane what `f` does (rules R105, R221). -/
theorem ammxTo_of_zipW (i : Instr) (f : Word → Word → Word) (vea : Vea) (b d : Reg5) (P : Word → Word → Word → Prop)
    (meaning : ∀ s, exec i s = classL (zipW f) vea b d s) (result : ∀ x y, P x y (f x y)) :
    AmmxTo i vea b d (EachWord P) :=
  ammxTo_of_classL i (zipW f) vea b d _ meaning fun x y k hk => by
    rw [laneW_zipW f x y k hk]
    exact result _ _

/-! ### The larger and the smaller of two lanes -/

section Choice

variable {α β : Type} [LinearOrder β] (key : α → β) (x y : α)

/-- The one of `x` and `y` with the larger key, as PMAX chooses it with a lane's signed or unsigned value as key. -/
def larger : α := if key y ≤ key x then x else y

/-- The one of `x` and `y` with the smaller key, as PMIN chooses it. -/
def smaller : α := if key x ≤ key y then x else y

theorem key_larger : key (larger key x y) = max (key x) (key y) := by
  rw [larger, apply_ite key, max_def']

theorem key_smaller : key (smaller key x y) = min (key x) (key y) := by
  rw [smaller, apply_ite key, min_def]

end Choice

theorem exec_pmaxsb (vea : Vea) (b d : Reg5) (s : State) :
    exec (.pmaxsb vea b d) s = classL (zipB (larger BitVec.toInt)) vea b d s := rfl

theorem exec_pmaxub (vea : Vea) (b d : Reg5) (s : State) :
    exec (.pmaxub vea b d) s = classL (zipB (larger BitVec.toNat)) vea b d s := rfl

theorem exec_pmaxsw (vea : Vea) (b d : Reg5) (s : State) :
    exec (.pmaxsw vea b d) s = classL (zipW (larger BitVec.toInt)) vea b d s := rfl

theorem exec_pmaxuw (vea : Vea) (b d : Reg5) (s : State) :
    exec (.pmaxuw vea b d) s = classL (zipW (larger BitVec.toNat)) vea b d s := rfl

theorem exec_pminsb (vea : Vea) (b d : Reg5) (s : State) :
    exec (.pminsb vea b d) s = classL (zipB (smaller BitVec.toInt)) vea b d s := rfl

theorem exec_pminub (vea : Vea) (b d : Reg5) (s : State) :
    exec (.pminub vea b d) s = classL (zipB (smaller BitVec.toNat)) vea b d s := rfl

theorem exec_pminsw (vea : Vea) (b d : Reg5) (s : State) :
    exec (.pminsw vea b d) s = classL (zipW (smaller BitVec.toInt)) vea b d s := rfl

theorem exec_pminuw (vea : Vea) (b d : Reg5) (s : State) :
    exec (.pminuw vea b d) s = classL (zipW (smaller BitVec.toNat)) vea b d s := rfl

/-- Settles O46: in each lane the result is the larger or the smaller by its signed or unsigned value. -/
theorem pmaxAndPminPickTheLane : Obligations.PmaxAndPminPickTheLane := by
  unfold Obligations.PmaxAndPminPickTheLane
  intro vea b d
  refine ⟨?pmaxsb, ?pmaxub, ?pmaxsw, ?pmaxuw, ?pminsb, ?pminub, ?pminsw, ?pminuw, ?_, ?_, ?_, ?_, ?_, ?_, ?_, ?_⟩
  case pmaxsb => exact ammxTo_of_zipB _ _ vea b d _ (exec_pmaxsb vea b d) (key_larger BitVec.toInt)
  case pmaxub => exact ammxTo_of_zipB _ _ vea b d _ (exec_pmaxub vea b d) (key_larger BitVec.toNat)
  case pmaxsw => exact ammxTo_of_zipW _ _ vea b d _ (exec_pmaxsw vea b d) (key_larger BitVec.toInt)
  case pmaxuw => exact ammxTo_of_zipW _ _ vea b d _ (exec_pmaxuw vea b d) (key_larger BitVec.toNat)
  case pminsb => exact ammxTo_of_zipB _ _ vea b d _ (exec_pminsb vea b d) (key_smaller BitVec.toInt)
  case pminub => exact ammxTo_of_zipB _ _ vea b d _ (exec_pminub vea b d) (key_smaller BitVec.toNat)
  case pminsw => exact ammxTo_of_zipW _ _ vea b d _ (exec_pminsw vea b d) (key_smaller BitVec.toInt)
  case pminuw => exact ammxTo_of_zipW _ _ vea b d _ (exec_pminuw vea b d) (key_smaller BitVec.toNat)
  all_goals exact ammxWords_of_veaInstr _ _ vea b d (by decide) (by decide) rfl

/-! ### Fields of the signed product -/

/-- Bits `k + 15 .. k` of an integer are those of its low 32 bits, for `k` up to 16. -/
theorem field_emod_two_pow (p : Int) (k : Nat) (hk : k ≤ 16) :
    p % 2 ^ 32 / 2 ^ k % 2 ^ 16 = p / 2 ^ k % 2 ^ 16 := by
  have factors : (2 : Int) ^ 32 = 2 ^ k * (2 ^ (16 - k) * 2 ^ 16) := by
    rw [← pow_add, ← pow_add, show k + (16 - k + 16) = 32 by omega]
  have reduced : p % 2 ^ 32 = p - 2 ^ k * (2 ^ (16 - k) * (p / 2 ^ 32) * 2 ^ 16) := by
    rw [Int.emod_def, mul_right_comm, ← mul_assoc, ← factors]
  rw [reduced, Int.sub_mul_ediv_left _ _ (by positivity), Int.sub_mul_emod_self_right]

/-- A word cut out of the 32-bit product is that word of the exact product (rule R280). -/
theorem toNat_product_field (x y : Word) (k : Nat) (hk : k ≤ 16) :
    (((product x y).extractLsb' k 16).toNat : Int) = x.toInt * y.toInt / 2 ^ k % 2 ^ 16 := by
  have stored : ((product x y).toNat : Int) = x.toInt * y.toInt % 2 ^ 32 := by
    rw [product, BitVec.toNat_ofInt]
    exact Int.toNat_of_nonneg (Int.emod_nonneg _ (by decide))
  rw [BitVec.extractLsb'_toNat, Nat.shiftRight_eq_div_pow, Int.natCast_mod, Int.natCast_ediv, stored]
  exact field_emod_two_pow _ k hk

theorem exec_pmul88 (vea : Vea) (b d : Reg5) (s : State) :
    exec (.pmul88 vea b d) s = classL (zipW fun x y => (product x y).extractLsb' 8 16) vea b d s := rfl

theorem exec_pmulh (vea : Vea) (b d : Reg5) (s : State) :
    exec (.pmulh vea b d) s = classL (zipW fun x y => (product x y).extractLsb' 16 16) vea b d s := rfl

theorem exec_pmull (vea : Vea) (b d : Reg5) (s : State) :
    exec (.pmull vea b d) s = classL (zipW fun x y => (product x y).extractLsb' 0 16) vea b d s := rfl

/-- Settles O47: each lane is a field of the signed product, bits 23-8, 31-16 or 15-0. -/
theorem pmulKeepsItsPartOfTheProduct : Obligations.PmulKeepsItsPartOfTheProduct := by
  unfold Obligations.PmulKeepsItsPartOfTheProduct
  intro vea b d
  refine ⟨?pmul88, ?pmulh, ?pmull, ?_, ?_, ?_, ?_⟩
  case pmul88 =>
    exact ammxTo_of_zipW _ _ vea b d _ (exec_pmul88 vea b d) fun x y => toNat_product_field x y 8 (by omega)
  case pmulh =>
    exact ammxTo_of_zipW _ _ vea b d _ (exec_pmulh vea b d) fun x y => toNat_product_field x y 16 (by omega)
  case pmull =>
    exact ammxTo_of_zipW _ _ vea b d _ (exec_pmull vea b d) fun x y => by
      rw [toNat_product_field x y 0 (by omega), pow_zero, Int.ediv_one]
  all_goals exact ammxWords_of_veaInstr _ _ vea b d (by decide) (by decide) rfl

end Sys2Proof.Machine
end

section
/-!
PROOF. Decoding the encoding of a well-formed instruction gives it back (30_encoding.md rules R90 to R114): fields of words
written as concatenations, then the rows line by line of rule R107, the AMMX unit, and the BANK bundles.
-/

namespace Sys2Proof
open Decode Encode Machine

/-! ### Fields of a word, compared with a constant -/

/-- A field above the lowest part of a word. -/
theorem lower_eq_iff {m n : Nat} (x : BitVec m) (y : BitVec n) (k len : Nat) (c : BitVec len) (h : n ≤ k) :
    (x ++ y).extractLsb' k len = c ↔ x.extractLsb' (k - n) len = c := by
  rw [BitVec.extractLsb'_append_eq_of_le h]

/-- A field that straddles two parts of a word, compared with a constant. -/
theorem straddle_eq_iff {m n : Nat} (x : BitVec m) (y : BitVec n) (k len : Nat) (c : BitVec len) (hk : k < n)
    (hl : n < k + len) :
    (x ++ y).extractLsb' k len = c ↔
      x.extractLsb' 0 (len - (n - k)) = c.extractLsb' (n - k) (len - (n - k)) ∧
        y.extractLsb' k (n - k) = c.extractLsb' 0 (n - k) := by
  constructor
  · rintro rfl
    constructor
    · apply BitVec.eq_of_getLsbD_eq
      intro i hi
      simp [hi, BitVec.getLsbD_append, show n - k + i < len by omega, show k + (n - k + i) = n + i by omega]
    · apply BitVec.eq_of_getLsbD_eq
      intro i hi
      simp [hi, BitVec.getLsbD_append, show i < len by omega, show k + i < n by omega]
  · rintro ⟨high, low⟩
    apply BitVec.eq_of_getLsbD_eq
    intro i hi
    have h1 := congrArg (BitVec.getLsbD · (i - (n - k))) high
    have h2 := congrArg (BitVec.getLsbD · i) low
    simp only [BitVec.getLsbD_extractLsb', Nat.zero_add] at h1 h2
    simp only [BitVec.getLsbD_extractLsb', BitVec.getLsbD_append, hi, decide_true, Bool.true_and]
    by_cases c : k + i < n
    · simpa [c, show i < n - k by omega] using h2
    · simpa [c, show i - (n - k) < len - (n - k) by omega, show k + i - n = i - (n - k) by omega,
        show n - k + (i - (n - k)) = i by omega] using h1

/-- Two words are equal when their bits 15-6 and their bits 5-0 are. -/
theorem word_eq_iff (w c : Word) : w = c ↔ bits w 6 10 = bits c 6 10 ∧ bits w 0 6 = bits c 0 6 := by
  constructor
  · rintro rfl; exact ⟨rfl, rfl⟩
  · rintro ⟨h1, h2⟩
    have : ∀ x : Word, bits x 6 10 ++ bits x 0 6 = x := fun x => BitVec.extractLsb'_append_extractLsb'
    rw [← this w, h1, h2, this]



/-! ### The lines of rule R107 -/

/-- A word that is no BANK word stands at the head of one instruction (rules R107, R114). -/
theorem decode_eq_single (cfg : Config) (w : Word) (ws : List Word) (h : bits w 12 4 ≠ 7#4) :
    decode cfg (w :: ws) = single cfg (w :: ws) := by
  simp [decode, isBank, h]

theorem decode_of_line0 (cfg : Config) (w : Word) (ws : List Word) (h : bits w 12 4 = 0x0#4) :
    decode cfg (w :: ws) = line0 cfg w ws := by
  rw [decode_eq_single cfg w ws (by simp [h])]; simp [single, h]

theorem decode_of_line1 (cfg : Config) (w : Word) (ws : List Word) (h : bits w 12 4 = 0x1#4) :
    decode cfg (w :: ws) = line1 w ws := by
  rw [decode_eq_single cfg w ws (by simp [h])]; simp [single, h]

theorem decode_of_line5 (cfg : Config) (w : Word) (ws : List Word) (h : bits w 12 4 = 0x5#4) :
    decode cfg (w :: ws) = line5 w ws := by
  rw [decode_eq_single cfg w ws (by simp [h])]; simp [single, h]

theorem decode_of_line6 (cfg : Config) (w : Word) (ws : List Word) (h : bits w 12 4 = 0x6#4) :
    decode cfg (w :: ws) = .ok (Decode.branch (bits w 8 4) (bits w 0 8)) ws := by
  rw [decode_eq_single cfg w ws (by simp [h])]; simp [single, h]

theorem decode_of_lineA (cfg : Config) (w : Word) (ws : List Word) (h : bits w 12 4 = 0xA#4) :
    decode cfg (w :: ws) = Decode.lineA w ws := by
  rw [decode_eq_single cfg w ws (by simp [h])]; simp [single, h]

theorem decode_of_lineF (cfg : Config) (w : Word) (ws : List Word) (h : bits w 12 4 = 0xF#4) :
    decode cfg (w :: ws) = lineF cfg w ws := by
  rw [decode_eq_single cfg w ws (by simp [h])]; simp [single, h]

/-- The words of the instruction, whatever words follow, decode to it. -/
def RoundTrips (cfg : Config) (i : Instr) : Prop :=
  ∀ rest : List Word, decode cfg (encode cfg i ++ rest) = .ok i rest

/-- Line 0000: ORI and ANDI to SR, ADDIW, and the `$0Exx` group (rules R110, R131, R183, R184, R195 to R205). -/
theorem roundTrips_line0 (cfg : Config) :
    (∀ imm, RoundTrips cfg (.oriSr imm)) ∧ (∀ imm, RoundTrips cfg (.andiSr imm)) ∧
    (∀ imm ea, ea.immFits .l = true → RoundTrips cfg (.addiw imm ea)) ∧
    (∀ sz toEa b ea, sz ≠ .q → ea.immFits sz = true → RoundTrips cfg (.movex sz toEa b ea)) ∧
    (∀ toMem b ea, ea.immFits .w = true → RoundTrips cfg (.moveh toMem b ea)) ∧
    (∀ sz toMem b c ea, sz ≠ .q → ea.immFits sz = true → ¬ (cfg.move2Old = true ∧ c = 0#4) →
      RoundTrips cfg (.move2 sz toMem b c ea)) ∧
    (∀ sz toMem b ea, sz ≠ .q → ea.immFits sz = true → cfg.move2Old = true → RoundTrips cfg (.move2Old sz toMem b ea)) ∧
    ∀ sz b c ea, sz ≠ .q → ea.immFits sz = true → RoundTrips cfg (.movz2 sz b c ea) := by
  refine ⟨fun imm rest => ?oriSr, fun imm rest => ?andiSr, fun imm ea fits rest => ?addiw,
    fun sz toEa b ea notQuad fits rest => ?movex, fun toMem b ea fits rest => ?moveh,
    fun sz toMem b c ea notQuad fits notOld rest => ?move2, fun sz toMem b ea notQuad fits old rest => ?move2Old,
    fun sz b c ea notQuad fits rest => ?movz2⟩
  case oriSr => rfl
  case andiSr => rfl
  case addiw =>
    rw [encode, ea6, List.cons_append, decode_of_line0]
    all_goals
      simp (disch := omega) [line0, bits, ↓lower_eq_iff, ↓straddle_eq_iff, ↓word_eq_iff,
        BitVec.extractLsb'_append_eq_of_le, BitVec.extractLsb'_append_eq_of_add_le, -Nat.reduceAdd, withWord, withEaOf,
        withEa_eaWords]
  case moveh =>
    rw [encode, Encode.ext0E, List.cons_append, decode_of_line0]
    all_goals
      simp (disch := omega) [line0, Decode.ext0E, bits, ↓lower_eq_iff, ↓straddle_eq_iff, ↓word_eq_iff,
        BitVec.extractLsb'_append_eq_of_le, BitVec.extractLsb'_append_eq_of_add_le, -Nat.reduceAdd, withWord, withEaOf,
        withEa_eaWords, ↓BitVec.getLsbD_append, sizeCode]
  all_goals
    rw [encode, Encode.ext0E, List.cons_append, decode_of_line0]
    all_goals
      simp (disch := first | omega | assumption) [line0, Decode.ext0E, bits, ↓lower_eq_iff, ↓straddle_eq_iff, ↓word_eq_iff,
        BitVec.extractLsb'_append_eq_of_le, BitVec.extractLsb'_append_eq_of_add_le, -Nat.reduceAdd, withWord, withEaOf,
        withEa_eaWords, withSize_sizeCode, ↓BitVec.getLsbD_append, *]

/-- Line 0001: MOVEA.L and MOVE.L with a B register (rules R113, R172, R173). -/
theorem roundTrips_line1 (cfg : Config) :
    (∀ ea bn, ea.immFits .l = true → RoundTrips cfg (.moveaEaBn ea bn)) ∧
    ∀ bn ea, ea.immFits .l = true → eaMode ea ≠ 1#3 → RoundTrips cfg (.moveBnEa bn ea) := by
  refine ⟨fun ea bn fits rest => ?moveaEaBn, fun bn ea fits notAn rest => ?moveBnEa⟩
  all_goals
    rw [encode, List.cons_append, decode_of_line1]
    all_goals
      simp (disch := omega) [r3ea6, line1, bits, ↓lower_eq_iff, BitVec.extractLsb'_append_eq_of_le,
        BitVec.extractLsb'_append_eq_of_add_le, -Nat.reduceAdd, withEaOf, withEa_eaWords, *]

/-- Line 0100 (rules R147, R149, R152, R153, R155, R156, R182, R192, R208). -/
theorem roundTrips_line4 (cfg : Config) :
    (∀ ea, ea.immFits .w = true → RoundTrips cfg (.moveSrEa ea)) ∧
    (∀ ea, ea.immFits .b = true → RoundTrips cfg (.clrB ea)) ∧
    (∀ ea, ea.immFits .w = true → RoundTrips cfg (.clrW ea)) ∧
    (∀ ea, ea.immFits .l = true → RoundTrips cfg (.clrL ea)) ∧
    (∀ dn, RoundTrips cfg (.extub dn)) ∧ (∀ dn, RoundTrips cfg (.extuw dn)) ∧
    (∀ a b p0 p1 p2 p3, RoundTrips cfg (.perm a b p0 p1 p2 p3)) ∧
    (∀ imm ea, ea.immFits .l = true → RoundTrips cfg (.cmpiw imm ea)) ∧
    (∀ rn creg, RoundTrips cfg (.movecRcRn rn creg)) ∧ (∀ rn creg, RoundTrips cfg (.movecRnRc rn creg)) ∧
    (∀ ea bn, ea.immFits .l = true → RoundTrips cfg (.leaEaBn ea bn)) ∧
    ∀ bn an, RoundTrips cfg (.leaBnAn bn an) := by
  and_intros
  all_goals
    intros
    intro rest
    simp only [encode, ea6, r3ea6, List.cons_append]
    rw [decode_of_line4]
    all_goals
      simp (disch := first | omega | assumption) [line4, clr, bits, ↓lower_eq_iff, ↓straddle_eq_iff, ↓word_eq_iff,
        BitVec.extractLsb'_append_eq_of_le, BitVec.extractLsb'_append_eq_of_add_le, -Nat.reduceAdd, withWord, withEaOf,
        withEa_eaWords]

/-- The words of DBcc.L decode to it when the displacement is odd, and are no row otherwise (rule R150). -/
theorem decode_dbcc (cfg : Config) (cond : BitVec 4) (dn : Reg3) (disp : Word) (rest : List Word) :
    decode cfg ((0x5#4 ++ cond ++ 0x19#5 ++ dn) :: disp :: rest) =
      if disp.getLsbD 0 then .ok (.dbccL cond dn disp) rest else .reject .noRow := by
  rw [decode_of_line5]
  all_goals
    simp (disch := omega) [line5, bits, ↓lower_eq_iff, ↓straddle_eq_iff, BitVec.extractLsb'_append_eq_of_le,
      BitVec.extractLsb'_append_eq_of_add_le, -Nat.reduceAdd, withWord]

/-- Line 0101: ADDQ and SUBQ to a B register, DBcc.L (rules R132, R150, R210). -/
theorem roundTrips_line5 (cfg : Config) :
    (∀ data bn, RoundTrips cfg (.addqBn data bn)) ∧ (∀ data bn, RoundTrips cfg (.subqBn data bn)) ∧
    ∀ cond dn disp, disp.getLsbD 0 = true → RoundTrips cfg (.dbccL cond dn disp) := by
  refine ⟨fun data bn rest => ?addqBn, fun data bn rest => ?subqBn, fun cond dn disp odd rest => ?dbccL⟩
  case dbccL => exact (decode_dbcc cfg cond dn disp rest).trans (if_pos odd)
  all_goals
    rw [encode, List.cons_append, decode_of_line5]
    all_goals
      simp (disch := omega) [line5, bits, ↓lower_eq_iff, BitVec.extractLsb'_append_eq_of_le,
        BitVec.extractLsb'_append_eq_of_add_le, -Nat.reduceAdd]

/-- The words of line 0110 decode to the branch of their condition (rules R34, R142). -/
theorem decode_branch (cfg : Config) (cond : BitVec 4) (d8 : Byte) (rest : List Word) :
    decode cfg (Encode.branch cond d8 ++ rest) = .ok (Decode.branch cond d8) rest := by
  rw [Encode.branch, List.cons_append, decode_of_line6]
  all_goals
    simp (disch := omega) [bits, BitVec.extractLsb'_append_eq_of_le, BitVec.extractLsb'_append_eq_of_add_le, -Nat.reduceAdd]

/-- Line 1010 (rules R108, R146, R170, R201 to R203). -/
theorem roundTrips_lineA (cfg : Config) :
    (∀ imm ea, ea.immFits .l = true → RoundTrips cfg (.moviw imm ea)) ∧
    (∀ ea, ea.immFits .q = true → RoundTrips cfg (.clrQ ea)) ∧
    (∀ data ea, ea.immFits .l = true → RoundTrips cfg (.mov3q data ea)) ∧
    (∀ sz ea dn, sz = .b ∨ sz = .w → ea.immFits sz = true → RoundTrips cfg (.movs sz ea dn)) ∧
    ∀ sz ea dn, sz = .b ∨ sz = .w → ea.immFits sz = true → RoundTrips cfg (.movz sz ea dn) := by
  refine ⟨fun imm ea fits rest => ?moviw, fun ea fits rest => ?clrQ, fun data ea fits rest => ?mov3q,
    fun sz ea dn size fits rest => ?movs, fun sz ea dn size fits rest => ?movz⟩
  case' movs => rcases size with rfl | rfl
  case' movz => rcases size with rfl | rfl
  all_goals
    simp only [encode, ea6, r3ea6, List.cons_append]
    rw [decode_of_lineA]
    all_goals
      simp (disch := omega) [Decode.lineA, bits, ↓lower_eq_iff, ↓straddle_eq_iff,
        BitVec.extractLsb'_append_eq_of_le, BitVec.extractLsb'_append_eq_of_add_le, -Nat.reduceAdd, withWord, withEaOf,
        withEa_eaWords, *]

/-- CMP.L Bn,Dn, the one row of line 1100 (rule R148). -/
theorem roundTrips_cmpBnDn (cfg : Config) (bn dn : Reg3) : RoundTrips cfg (.cmpBnDn bn dn) := by
  intro rest
  have line : bits (0xC#4 ++ dn ++ 0x30#6 ++ bn) 12 4 = 0xC#4 := by
    simp (disch := omega) [bits, BitVec.extractLsb'_append_eq_of_le, -Nat.reduceAdd]
  rw [encode, List.cons_append, decode_eq_single cfg _ _ (by simp [line])]
  simp only [single, line]
  simp (disch := omega) [bits, ↓lower_eq_iff, BitVec.extractLsb'_append_eq_of_le,
        BitVec.extractLsb'_append_eq_of_add_le, -Nat.reduceAdd]

/-! ### Line 1111 -/

/-- FMOVE, FMOVERZ and FMOVEURZ (rules R325 to R330). -/
theorem roundTrips_fpgen (cfg : Config) :
    (∀ fmt rp ea fp, ea.immFits fmt.size = true → RoundTrips cfg (.fmoveEaFp fmt rp ea fp)) ∧
    (∀ fmt fp ea, ea.immFits fmt.size = true → RoundTrips cfg (.fmoveFpEa fmt fp ea)) ∧
    (∀ fmt fp ea, ea.immFits fmt.size = true → RoundTrips cfg (.fmoverz fmt fp ea)) ∧
    ∀ fmt fp ea, ea.immFits fmt.size = true → RoundTrips cfg (.fmoveurz fmt fp ea) := by
  and_intros
  all_goals
    intros
    intro rest
    simp only [encode, Encode.fmoveIn, Encode.fmoveOut, ea6, fpWord2, List.cons_append]
    rw [decode_of_lineF]
    all_goals
      simp (disch := omega) [lineF, fpgen, bits, ↓lower_eq_iff, ↓BitVec.getLsbD_append,
        BitVec.extractLsb'_append_eq_of_le, BitVec.extractLsb'_append_eq_of_add_le, -Nat.reduceAdd, withWord, withEaOf,
        withRp_rpCode, withFmt_fmtCode, withEa_eaWords]

/-- The words of FDBcc.L decode to it when bits 15-6 of word 2 are 0 and the displacement is odd, and are no row
otherwise (rule R323). -/
theorem decode_fdbcc (cfg : Config) (dn : Reg3) (z : BitVec 10) (pred : BitVec 6) (disp : Word) (rest : List Word) :
    decode cfg ((0x1E49#13 ++ dn) :: (z ++ pred) :: disp :: rest) =
      if z = 0 ∧ disp.getLsbD 0 = true then .ok (.fdbccL pred dn disp) rest else .reject .noRow := by
  rw [decode_of_lineF]
  all_goals
    simp (disch := omega) [lineF, fdbcc, bits, ↓lower_eq_iff,
      BitVec.extractLsb'_append_eq_of_add_le, -Nat.reduceAdd, withWord]
  split_ifs <;> simp_all

/-- TOUCH's index extension reads back from its words (rules R94, R95). -/
theorem withIndexExt_indexExtWords (ext : IndexExt) (ws : List Word) (k : IndexExt → List Word → Decoded) :
    withIndexExt (indexExtWords ext ++ ws) k = k ext ws := by
  cases ext with
  | brief e =>
    simp only [withIndexExt, indexExtWords, List.cons_append, List.nil_append, withWord, briefWord_bit8,
      Bool.false_eq_true, if_false, briefOf_briefWord]
  | full e =>
    simp only [withIndexExt, indexExtWords, List.cons_append, List.append_assoc, withWord]
    simp (disch := omega) [bits, ↓BitVec.getLsbD_append, BitVec.extractLsb'_append_eq_of_le,
      BitVec.extractLsb'_append_eq_of_add_le, -Nat.reduceAdd, withBaseDisp_dispWords, withOuter_iisWords]

/-- MOVE16 and TOUCH (rules R113, R186, R187, R212). -/
theorem roundTrips_move16 (cfg : Config) :
    (∀ ax ay, RoundTrips cfg (.move16PiPi ax ay)) ∧ (∀ an l, RoundTrips cfg (.move16PiAbs an l)) ∧
    (∀ l an, RoundTrips cfg (.move16AbsPi l an)) ∧
    (∀ an l, cfg.f610Is = .move16 → RoundTrips cfg (.move16AnAbs an l)) ∧
    (∀ l an, RoundTrips cfg (.move16AbsAn l an)) ∧
    (∀ an, cfg.f610Is = .touch → RoundTrips cfg (.touchAn an)) ∧ ∀ an ext, RoundTrips cfg (.touchIndex an ext) := by
  and_intros
  all_goals
    intros
    intro rest
    simp only [encode, List.cons_append]
    rw [decode_of_lineF]
    all_goals
      simp (disch := omega) [lineF, Decode.move16, bits, ↓lower_eq_iff, ↓BitVec.getLsbD_append,
        BitVec.extractLsb'_append_eq_of_le, BitVec.extractLsb'_append_eq_of_add_le, -Nat.reduceAdd, withWord,
        withLong_longWords, withIndexExt_indexExtWords, *]

/-! ### The AMMX unit -/

/-- TEX and TEX.b (rules R300, R301). -/
theorem roundTrips_tex (cfg : Config) :
    (∀ an au av d s1 s2 ttt s3, RoundTrips cfg (.tex an au av d s1 s2 ttt s3)) ∧
    ∀ an au av d dm, RoundTrips cfg (.texB an au av d dm) := by
  and_intros
  all_goals
    intros
    intro rest
    simp only [encode, List.cons_append]
    rw [decode_of_ammx]
    all_goals
      simp (disch := omega) [ammx, texInstr, bits, ↓lower_eq_iff, ↓straddle_eq_iff, ↓BitVec.getLsbD_append,
        BitVec.extractLsb'_append_eq_of_le, BitVec.extractLsb'_append_eq_of_add_le, -Nat.reduceAdd, withWord, *]

/-- The row of an opcode byte that the spec assigns round-trips (rules R91, R101). -/
theorem roundTrips_of_ammxWords (cfg : Config) (i : Instr) (op : Byte) (vea : Vea) (b d : Reg5)
    (encoding : encode cfg i = ammxWords op vea b d) (words : AmmxWords i op vea b d) : RoundTrips cfg i := by
  intro rest
  rw [encoding]
  exact words cfg rest

/-- STOREM3's opcode byte, when there is one, is unassigned and has bits 7-6 = 00 (rule R296). -/
theorem storem3_spec (cfg : Config) (op : Byte) (h : cfg.storem3 = some op) :
    op ∉ ammxOpcodes ∧ op.extractLsb' 6 2 = 0#2 := by
  refine ⟨fun assigned => storem3_ne_assigned cfg op assigned h, ?_⟩
  have small : op.toNat < 64 := by
    revert h
    simp only [Config.storem3]
    split
    · simp
    · split
      · simp
      · next x guard =>
        intro e
        cases e
        simp only [Bool.or_eq_true, decide_eq_true_eq, not_or] at guard
        omega
  apply BitVec.eq_of_toNat_eq
  simp [Nat.shiftRight_eq_div_pow, Nat.div_eq_of_lt small]

/-- A word whose mode and register fields are a `<vea>`'s is not VPERM's (rules R103, R310). -/
theorem notVperm_of_vea (vea : Vea) (w : Word) (fmode : bits w 3 3 = veaMode vea) (freg : bits w 0 3 = veaReg vea) :
    bits w 0 6 ≠ 0x3F#6 := by
  intro h
  refine vea_ne_vperm vea ?_ ?_
  · rw [← fmode, ← bits_bits w 0 6 3 3 (by omega), h]; rfl
  · rw [← freg, ← bits_bits w 0 6 0 3 (by omega), h]; rfl

/-- The `d` field of STOREM3 holds 0, the two ignored bits and the mode (rules R106, R299). -/
theorem storem3_dField (xx mode : BitVec 2) : (0#1 ++ xx ++ mode : Reg5).extractLsb' 4 1 = 0#1 := by
  simp (disch := omega) [BitVec.extractLsb'_append_eq_of_le, -Nat.reduceAdd]

theorem storem3_word2 (b : BitVec 4) (xx mode : BitVec 2) (op : Byte) :
    (b ++ (0#1 ++ xx ++ mode : Reg5).extractLsb' 0 4 ++ op : Word) = b ++ xx ++ mode ++ op := by
  have low : (0#1 ++ xx ++ mode : Reg5).extractLsb' 0 4 = xx ++ mode := by revert xx mode; decide
  rw [low, BitVec.append_assoc']
  rfl

/-- The words of STOREM3 with the byte `STOREM3_OPCODE` gives decode to it (rules R296, R299). -/
theorem decode_storem3 (cfg : Config) (op : Byte) (vea : Vea) (b : Reg5) (mode xx : BitVec 2) (ws : List Word)
    (h : cfg.storem3 = some op) :
    decode cfg ((0x7F#7 ++ veaA vea ++ b.extractLsb' 4 1 ++ 0#1 ++ veaMode vea ++ veaReg vea) ::
      (b.extractLsb' 0 4 ++ xx ++ mode ++ op) :: (veaWords vea ++ ws)) = .ok (.storem3 b mode xx vea) ws := by
  obtain ⟨unit, fa, fb, fd, fmode, freg⟩ :=
    ammxWord1_fields (veaA vea) (b.extractLsb' 4 1) 0#1 (veaMode vea) (veaReg vea)
  obtain ⟨unassigned, top⟩ := storem3_spec cfg op h
  have fields : let w2 : Word := b.extractLsb' 0 4 ++ xx ++ mode ++ op
      bits w2 12 4 = b.extractLsb' 0 4 ∧ bits w2 10 2 = xx ∧ bits w2 8 2 = mode ∧ bits w2 0 8 = op := by
    and_intros
    all_goals
      simp (disch := omega) [bits, BitVec.extractLsb'_append_eq_of_le, BitVec.extractLsb'_append_eq_of_add_le,
        -Nat.reduceAdd]
  obtain ⟨fb2, fxx, fmode2, fop⟩ := fields
  rw [decode_of_ammx _ _ _ unit]
  generalize 0x7F#7 ++ veaA vea ++ b.extractLsb' 4 1 ++ 0#1 ++ veaMode vea ++ veaReg vea = w at *
  generalize b.extractLsb' 0 4 ++ xx ++ mode ++ op = w2 at *
  have notVperm : bits w 0 6 ≠ 0x3F#6 := notVperm_of_vea vea w fmode freg
  have m : bits w2 6 2 = 0#2 := by rw [← bits_bits w2 0 8 6 2 (by omega), fop, top]
  have other (x : Byte) (hx : x ∈ ammxOpcodes) : op ≠ x := by rintro rfl; exact unassigned hx
  have notHi := other 0x02#8 (by decide)
  have notLo := other 0x03#8 (by decide)
  have notMinterm := other 0x2A#8 (by decide)
  have notTex := other 0x3E#8 (by decide)
  simp only [ammx, withWord, bit_eq_msb_bits, notVperm, m, notHi, notLo, notMinterm, notTex, fa, fb, fd, fmode, freg, fb2, fxx, fmode2, fop, reg5_of_parts, h,
    false_and, or_self, ne_eq, not_true_eq_false, if_false]
  rw [withVea_veaWords]
  exact if_pos ⟨trivial, by decide⟩

/-- The bundles: a BANK word and the instruction after it (rules R136, R328). -/
def isBundle : Instr → Bool
  | .bank _ _ | .floadi _ _ _ _ _ | .fstorei _ _ _ _ => true
  | _ => false

theorem isBundle_bundleOf (p : BankPrefix) (i : Instr) : isBundle (bundleOf p i) = true := by
  unfold bundleOf
  split <;> rfl

/-- Words that decode to no bundle begin with no BANK word. -/
theorem single_of_decode (cfg : Config) (ws rest : List Word) (i : Instr) (h : decode cfg ws = .ok i rest)
    (hi : isBundle i = false) : single cfg ws = .ok i rest := by
  cases ws with
  | nil => cases h
  | cons w ws =>
    simp only [decode] at h
    split at h
    · split at h
      · cases h
        rw [isBundle_bundleOf] at hi
        cases hi
      · cases h
      · cases h
    · exact h

theorem prefixOf_bankWord (p : BankPrefix) : prefixOf (bankWord p) = p := by
  simp (disch := omega) [prefixOf, bankWord, bits, BitVec.extractLsb'_append_eq_of_le,
    BitVec.extractLsb'_append_eq_of_add_le, -Nat.reduceAdd]

theorem isBank_bankWord (p : BankPrefix) : isBank (bankWord p) = true := by
  rw [isBank, bankWord]
  simp (disch := omega) [bits, ↓BitVec.getLsbD_append, BitVec.extractLsb'_append_eq_of_le,
    -Nat.reduceAdd]

/-- A BANK word and the words of an instruction decode to their bundle (rules R136, R139). -/
theorem decode_bank (cfg : Config) (p : BankPrefix) (inner : Instr) (ws rest : List Word)
    (h : decode cfg ws = .ok inner rest) (hi : isBundle inner = false) :
    decode cfg (bankWord p :: ws) = .ok (bundleOf p inner) rest := by
  simp only [decode, isBank_bankWord, if_true, single_of_decode cfg ws rest inner h hi, prefixOf_bankWord]

/-! ### Well-formed terms -/

theorem firstComplaint_eq_none (a b : Option Reject) : firstComplaint a b = none ↔ a = none ∧ b = none := by
  cases a <;> simp [firstComplaint]

theorem need_eq_none (ok : Bool) (r : Reject) : need ok r = none ↔ ok = true := by
  cases ok <;> simp [need]

theorem eaComplaint_eq_none (c : EaClass) (sz : Size) (ea : Ea) :
    eaComplaint c sz ea = none ↔ c.allows ea = true ∧ ea.immFits sz = true := by
  simp [eaComplaint, need_eq_none]

theorem wellFormed_iff (cfg : Config) (i : Instr) : i.wellFormed cfg = true ↔ i.complaint cfg = none := by
  simp [Instr.wellFormed]

/-- No alterable operand is an address register (rule R93). -/
theorem eaMode_ne_an (ea : Ea) (h : EaClass.allows .alter ea = true) : eaMode ea ≠ 1#3 := by
  cases ea <;> simp_all [EaClass.allows, Ea.isDn, Ea.isMem, eaMode]

/-- An admitted bundle holds no bundle, and is the term its words decode to (rules R138, R140, R328). -/
theorem bundleOf_admitted (p : BankPrefix) (inner : Instr) (h : bankFieldComplaint p inner = none) :
    isBundle inner = false ∧ bundleOf p inner = .bank p inner := by
  cases inner with
  | fmoveEaFp fmt rp ea fp =>
    cases ea <;> simp [bankFieldComplaint, firstComplaint_eq_none, need_eq_none, Ea.isDn, isBundle, bundleOf] at h ⊢
  | fmoveFpEa fmt fp ea =>
    cases ea <;> simp [bankFieldComplaint, firstComplaint_eq_none, need_eq_none, Ea.isDn, isBundle, bundleOf] at h ⊢
  | bank _ _ => cases h
  | floadi _ _ _ _ _ => cases h
  | fstorei _ _ _ _ => cases h
  | _ => exact ⟨rfl, rfl⟩

/-- An operand that `complaint` admits has an immediate of its size (rule R96). -/
theorem immFits_of_admitted {c : EaClass} {sz : Size} {ea : Ea} (h : eaComplaint c sz ea = none) :
    ea.immFits sz = true := ((eaComplaint_eq_none c sz ea).mp h).2

/-- Every well-formed instruction round-trips, line by line of rule R107; a bundle by the instruction in it. -/
theorem roundTrips_of_wellFormed (cfg : Config) (i : Instr) (h : i.complaint cfg = none) : RoundTrips cfg i := by
  obtain ⟨oriSr, andiSr, addiw, movex, moveh, move2, move2Old, movz2⟩ := roundTrips_line0 cfg
  obtain ⟨moveaEaBn, moveBnEa⟩ := roundTrips_line1 cfg
  obtain ⟨moveSrEa, clrB, clrW, clrL, extub, extuw, perm, cmpiw, movecRcRn, movecRnRc, leaEaBn, leaBnAn⟩ :=
    roundTrips_line4 cfg
  obtain ⟨addqBn, subqBn, dbccL⟩ := roundTrips_line5 cfg
  obtain ⟨moviw, clrQ, mov3q, movs, movz⟩ := roundTrips_lineA cfg
  obtain ⟨fmoveEaFp, fmoveFpEa, fmoverz, fmoveurz⟩ := roundTrips_fpgen cfg
  obtain ⟨move16PiPi, move16PiAbs, move16AbsPi, move16AnAbs, move16AbsAn, touchAn, touchIndex⟩ := roundTrips_move16 cfg
  obtain ⟨tex, texB⟩ := roundTrips_tex cfg
  induction i with
  | oriSr imm => exact oriSr imm
  | andiSr imm => exact andiSr imm
  | addiw imm ea => exact addiw imm ea (immFits_of_admitted h)
  | movex sz toEa b ea =>
    simp only [Instr.complaint, firstComplaint_eq_none, need_eq_none] at h
    obtain ⟨size, operand, -⟩ := h
    exact movex sz toEa b ea (by rintro rfl; cases size) (immFits_of_admitted operand)
  | moveh toMem b ea => exact moveh toMem b ea (immFits_of_admitted h)
  | move2 sz toMem b c ea =>
    simp only [Instr.complaint, move2Complaint, firstComplaint_eq_none, need_eq_none] at h
    obtain ⟨new, size, operand, -⟩ := h
    exact move2 sz toMem b c ea (by simpa using size) (immFits_of_admitted operand) (by rintro ⟨old, rfl⟩; simp [old] at new)
  | move2Old sz toMem b ea =>
    simp only [Instr.complaint, firstComplaint_eq_none, need_eq_none] at h
    obtain ⟨old, size, operand, -⟩ := h
    exact move2Old sz toMem b ea (by simpa using size) (immFits_of_admitted operand) old
  | movz2 sz b c ea =>
    simp only [Instr.complaint, firstComplaint_eq_none, need_eq_none] at h
    obtain ⟨size, operand, -⟩ := h
    exact movz2 sz b c ea (by rintro rfl; cases size) (immFits_of_admitted operand)
  | moveaEaBn ea bn => exact moveaEaBn ea bn (immFits_of_admitted h)
  | moveBnEa bn ea =>
    obtain ⟨admitted, fits⟩ := (eaComplaint_eq_none ..).mp h
    exact moveBnEa bn ea fits (eaMode_ne_an ea admitted)
  | moveSrEa ea => exact moveSrEa ea (immFits_of_admitted h)
  | clrB ea => exact clrB ea (immFits_of_admitted h)
  | clrW ea => exact clrW ea (immFits_of_admitted h)
  | clrL ea => exact clrL ea (immFits_of_admitted h)
  | extub dn => exact extub dn
  | extuw dn => exact extuw dn
  | perm a b p0 p1 p2 p3 => exact perm a b p0 p1 p2 p3
  | cmpiw imm ea => exact cmpiw imm ea (immFits_of_admitted h)
  | movecRcRn rn creg => exact movecRcRn rn creg
  | movecRnRc rn creg => exact movecRnRc rn creg
  | leaEaBn ea bn => exact leaEaBn ea bn (immFits_of_admitted h)
  | leaBnAn bn an => exact leaBnAn bn an
  | addqBn data bn => exact addqBn data bn
  | subqBn data bn => exact subqBn data bn
  | dbccL cond dn disp => exact dbccL cond dn disp ((need_eq_none ..).mp h)
  | bhi d8 => exact decode_branch cfg _ d8
  | bls d8 => exact decode_branch cfg _ d8
  | bcc d8 => exact decode_branch cfg _ d8
  | bcs d8 => exact decode_branch cfg _ d8
  | bne d8 => exact decode_branch cfg _ d8
  | beq d8 => exact decode_branch cfg _ d8
  | bvc d8 => exact decode_branch cfg _ d8
  | bvs d8 => exact decode_branch cfg _ d8
  | bpl d8 => exact decode_branch cfg _ d8
  | bmi d8 => exact decode_branch cfg _ d8
  | bge d8 => exact decode_branch cfg _ d8
  | blt d8 => exact decode_branch cfg _ d8
  | bgt d8 => exact decode_branch cfg _ d8
  | ble d8 => exact decode_branch cfg _ d8
  | bra d8 => exact decode_branch cfg _ d8
  | bsr d8 => exact decode_branch cfg _ d8
  | moviw imm ea => exact moviw imm ea (immFits_of_admitted h)
  | clrQ ea => exact clrQ ea (immFits_of_admitted h)
  | mov3q data ea => exact mov3q data ea (immFits_of_admitted h)
  | movs sz ea dn =>
    simp only [Instr.complaint, firstComplaint_eq_none, need_eq_none] at h
    obtain ⟨size, operand⟩ := h
    exact movs sz ea dn (by simpa using size) (immFits_of_admitted operand)
  | movz sz ea dn =>
    simp only [Instr.complaint, firstComplaint_eq_none, need_eq_none] at h
    obtain ⟨size, operand⟩ := h
    exact movz sz ea dn (by simpa using size) (immFits_of_admitted operand)
  | cmpBnDn bn dn => exact roundTrips_cmpBnDn cfg bn dn
  | fmoveEaFp fmt rp ea fp => exact fmoveEaFp fmt rp ea fp (immFits_of_admitted h)
  | fmoveFpEa fmt fp ea => exact fmoveFpEa fmt fp ea (immFits_of_admitted h)
  | fmoverz fmt fp ea => exact fmoverz fmt fp ea (immFits_of_admitted ((firstComplaint_eq_none ..).mp h).2)
  | fmoveurz fmt fp ea => exact fmoveurz fmt fp ea (immFits_of_admitted ((firstComplaint_eq_none ..).mp h).2)
  | fdbccL pred dn disp =>
    intro rest
    exact (decode_fdbcc cfg dn 0 pred disp rest).trans (if_pos ⟨rfl, (need_eq_none ..).mp h⟩)
  | move16PiPi ax ay => exact move16PiPi ax ay
  | move16PiAbs an l => exact move16PiAbs an l
  | move16AbsPi l an => exact move16AbsPi l an
  | move16AnAbs an l => exact move16AnAbs an l (by simpa [Instr.complaint, need_eq_none] using h)
  | move16AbsAn l an => exact move16AbsAn l an
  | touchAn an => exact touchAn an (by simpa [Instr.complaint, need_eq_none] using h)
  | touchIndex an ext => exact touchIndex an ext
  | tex an au av d s1 s2 ttt s3 => exact tex an au av d s1 s2 ttt s3
  | texB an au av d dm => exact texB an au av d dm
  | vperm a b d sel =>
    intro rest
    exact (decode_vperm cfg a b d 0 _ _ rest).trans (by rw [if_pos rfl, BitVec.extractLsb'_append_extractLsb'])
  | minterm grp d => exact groupWords_of_groupInstr 0x2A grp d (by decide) cfg
  | transhi grp d => exact groupWords_of_groupInstr 0x02 grp d (by decide) cfg
  | translo grp d => exact groupWords_of_groupInstr 0x03 grp d (by decide) cfg
  | storem3 b mode xx vea =>
    simp only [Instr.complaint, firstComplaint_eq_none, need_eq_none] at h
    obtain ⟨op, hop⟩ := Option.isSome_iff_exists.mp h.1
    intro rest
    rw [encode, hop, Option.getD_some, ammxWords, storem3_dField, storem3_word2]
    exact decode_storem3 cfg op vea b mode xx rest hop
  | bank p inner ih =>
    simp only [Instr.complaint, firstComplaint_eq_none] at h
    obtain ⟨-, admitted, innerOk⟩ := h
    obtain ⟨single, same⟩ := bundleOf_admitted p inner admitted
    intro rest
    exact (decode_bank cfg p inner _ rest (ih innerOk rest) single).trans (by rw [same])
  | floadi p fmt rp dn fp =>
    intro rest
    exact decode_bank cfg p (.fmoveEaFp fmt rp (.dn dn) fp) _ rest (fmoveEaFp fmt rp (.dn dn) fp rfl rest) rfl
  | fstorei p fmt fp dn =>
    intro rest
    exact decode_bank cfg p (.fmoveFpEa fmt fp (.dn dn)) _ rest (fmoveFpEa fmt fp (.dn dn) rfl rest) rfl
  | _ =>
    exact roundTrips_of_ammxWords cfg _ _ _ _ _ rfl
      (ammxWords_of_veaInstr _ _ _ _ _ (by decide) (by decide) rfl)

/-- Settles O1: every well-formed instruction round-trips. -/
theorem decodingTheEncodingGivesTheInstruction : Obligations.DecodingTheEncodingGivesTheInstruction := by
  unfold Obligations.DecodingTheEncodingGivesTheInstruction
  intro cfg i rest h
  exact roundTrips_of_wellFormed cfg i ((wellFormed_iff cfg i).mp h) rest

/-- Settles O2: the decoder run on each worked line. -/
theorem printedWordsDecodeToTheirInstructions : Obligations.PrintedWordsDecodeToTheirInstructions := by
  unfold Obligations.PrintedWordsDecodeToTheirInstructions
  and_intros <;> rfl

/-! ### Refused words -/

/-- An AMMX word 2 with bits 7-6 not 00 is refused, but for VPERM's (rule R101). -/
theorem decode_ammxM (cfg : Config) (w w2 : Word) (ws : List Word) (unit : bits w 9 7 = 0x7F#7)
    (notVperm : bits w 0 6 ≠ 0x3F#6) (top : bits w2 6 2 ≠ 0#2) :
    decode cfg (w :: w2 :: ws) = .reject .ammxM := by
  have notTex : bits w2 0 8 ≠ 0x3E#8 := by
    intro e
    exact top (by rw [← bits_bits w2 0 8 6 2 (by omega), e]; rfl)
  rw [decode_of_ammx cfg w _ unit]
  simp [ammx, withWord, notVperm, notTex, top]

/-- Bits 8-6 and 11-9 of the Line-A words of no pattern (rule R108). -/
def UnassignedLineA (w : Word) : Prop :=
  bits w 6 3 = 2#3 ∨ bits w 6 3 = 3#3 ∨ (bits w 6 3 = 0#3 ∧ bits w 9 3 ≠ 1#3 ∧ bits w 9 3 ≠ 7#3)

/-- A Line-A word of no pattern is judged unassigned (rules R108, R353). -/
theorem decode_unassignedLineA (cfg : Config) (w : Word) (ws : List Word) (line : bits w 12 4 = 0xA#4)
    (h : UnassignedLineA w) : decode cfg (w :: ws) = .reject .lineAUnassigned := by
  have field (lo n : Nat) (k len : Nat) (hk : k + len ≤ n) {c : BitVec n} (e : bits w lo n = c) :
      bits w (lo + k) len = c.extractLsb' k len := by rw [← e, bits_bits w lo n k len hk]
  have other (c : BitVec 10) (low : c.extractLsb' 0 3 = 0#3) (high : c.extractLsb' 3 3 = 1#3 ∨ c.extractLsb' 3 3 = 7#3) :
      bits w 6 10 ≠ c := fun e => by
    have zero : bits w 6 3 = 0#3 := (field 6 10 0 3 (by omega) e).trans low
    have top : bits w 9 3 = c.extractLsb' 3 3 := field 6 10 3 3 (by omega) e
    rcases h with h | h | ⟨-, not1, not7⟩
    · exact absurd (h.symm.trans zero) (by decide)
    · exact absurd (h.symm.trans zero) (by decide)
    · exact high.elim (fun e1 => not1 (top.trans e1)) fun e7 => not7 (top.trans e7)
  have notMoviw := other 0x288#10 rfl (.inl rfl)
  have notClrQ := other 0x2B8#10 rfl (.inr rfl)
  rw [decode_of_lineA cfg w ws line, Decode.lineA, if_neg notMoviw, if_neg notClrQ]
  rcases h with h | h | ⟨h, -⟩ <;> simp [h]

/-- Settles O3. -/
theorem unassignedLineAAndMBitWordsAreRejected : Obligations.UnassignedLineAAndMBitWordsAreRejected := by
  unfold Obligations.UnassignedLineAAndMBitWordsAreRejected
  exact ⟨decode_ammxM, decode_unassignedLineA⟩

end Sys2Proof
end

section
/-!
PROOF. What every step keeps (rules R13, R29, R39, R65, R72, R80): what an operation's answers satisfy, what an
instruction leaves of the state before `pc` moves past it, and from these the invariant, the text and the address after
the last word.
-/

namespace Sys2Proof.Machine

open Sys2Proof.Encode

/-! ### What the answers of an operation satisfy -/

/-- Every value the operation answers satisfies `P`; a fault or a refusal answers none. -/
def Ends {α : Type} (P : α → Prop) (x : Res α) : Prop := ∀ a, x = .next a → P a

@[simp] theorem ends_next {α : Type} (P : α → Prop) (a : α) : Ends P (.next a) ↔ P a := by
  simp [Ends]

@[simp] theorem ends_fault {α : Type} (P : α → Prop) (r : Fault) : Ends P (.fault r) := by simp [Ends]

@[simp] theorem ends_refused {α : Type} (P : α → Prop) (r : Refusal) : Ends P (.refused r) := by simp [Ends]

@[simp] theorem ends_raise {α : Type} (P : α → Prop) (x : Exception) (a : Addr) (s : State) :
    Ends P (raise x a s) := ends_fault P _

@[simp] theorem ends_andThen {α β : Type} (P : β → Prop) (x : Res α) (f : α → Res β) :
    Ends P (andThen x f) ↔ Ends (fun a => Ends P (f a)) x := by
  cases x <;> simp [andThen]

@[simp] theorem ends_finish (P : State → Prop) (n : Nat) (r : Res State) :
    Ends P (finish n r) ↔ Ends (fun u => P (u.advance n)) r := by
  simp [finish]

theorem Ends.mono {α : Type} {P Q : α → Prop} {x : Res α} (h : Ends P x) (imp : ∀ a, P a → Q a) : Ends Q x :=
  fun a e => imp a (h a e)

theorem ends_ite {α : Type} (P : α → Prop) (c : Prop) [Decidable c] (x y : Res α) (hx : c → Ends P x)
    (hy : ¬ c → Ends P y) : Ends P (if c then x else y) := by
  split
  · next h => exact hx h
  · next h => exact hy h

theorem ends_lineA (P : State → Prop) (s : State) (r : Res State) (h : Ends P r) : Ends P (lineA s r) :=
  ends_ite P _ _ _ (fun _ => h) fun _ => ends_raise P _ _ _

theorem ends_fpuOn (P : State → Prop) (s : State) (r : Res State) (h : Ends P r) : Ends P (fpuOn s r) :=
  ends_ite P _ _ _ (fun _ => ends_refused P _) fun _ => h

/-! ### What an instruction leaves of the state before `pc` moves -/

/-- What no rule lets an instruction change, memory in its canonical form, and every byte of the program text or outside
the data addresses (rules R39, R72, R80). -/
structure Kept (s t : State) : Prop where
  fixed : Fixed s t
  memWf : s.mem.wf = true → t.mem.wf = true
  byte : s.mem.wf = true → ∀ a, s.inText a = true ∨ s.inData a = false → t.byteAt a = s.byteAt a

theorem Kept.refl (s : State) : Kept s s := ⟨⟨rfl, rfl, rfl, rfl, rfl⟩, id, fun _ _ _ => rfl⟩

/-- A write that touches neither memory nor what is fixed. -/
theorem Kept.congr {s t u : State} (h : Kept s t) (usp : u.usp = t.usp) (cfg : u.cfg = t.cfg) (text : u.text = t.text)
    (regions : u.regions = t.regions) (sys : u.sr.sys &&& 0xF7 = t.sr.sys &&& 0xF7) (mem : u.mem = t.mem) : Kept s u where
  fixed := ⟨usp.trans h.fixed.usp, cfg.trans h.fixed.cfg, text.trans h.fixed.text, regions.trans h.fixed.regions,
    sys.trans h.fixed.sys⟩
  memWf w := by rw [mem]; exact h.memWf w
  byte w a ha := (congrArg (Memory.byte · a.toNat) mem).trans (h.byte w a ha)

/-- `Kept`, with `pc` where it was. -/
structure Stays (s t : State) : Prop extends Kept s t where
  pc : t.pc = s.pc

@[simp] theorem Stays.refl (s : State) : Stays s s := ⟨Kept.refl s, rfl⟩

theorem Stays.congr {s t u : State} (h : Stays s t) (usp : u.usp = t.usp) (cfg : u.cfg = t.cfg) (text : u.text = t.text)
    (regions : u.regions = t.regions) (sr : u.sr = t.sr) (mem : u.mem = t.mem) (pc : u.pc = t.pc) : Stays s u :=
  ⟨h.toKept.congr usp cfg text regions (by rw [sr]) mem, pc.trans h.pc⟩

@[simp] theorem Stays.setLong {s t : State} (h : Stays s t) (r : RegName) (v : Long) : Stays s (t.setLong r v) := by
  apply h.congr <;> simp

@[simp] theorem Stays.setQuad {s t : State} (h : Stays s t) (r : RegName) (v : QWord) : Stays s (t.setQuad r v) := by
  apply h.congr <;> simp

@[simp] theorem Stays.setPart {s t : State} (h : Stays s t) (sz : Size) (r : RegName) (v : QWord) :
    Stays s (t.setPart sz r v) := by
  apply h.congr <;> simp

@[simp] theorem Stays.setFp {s t : State} (h : Stays s t) (k : Reg5) (x : QWord) : Stays s (t.setFp k x) := by
  apply h.congr <;> simp

@[simp] theorem Stays.setFpcc {s t : State} (h : Stays s t) (f : FpCc) : Stays s (t.setFpcc f) := by
  apply h.congr <;> simp

@[simp] theorem Stays.setPcr {s t : State} (h : Stays s t) (p : Pcr) : Stays s (t.setPcr p) := by
  apply h.congr <;> simp

@[simp] theorem Stays.setCounters {s t : State} (h : Stays s t) (c : Counters) : Stays s (t.setCounters c) := by
  apply h.congr <;> simp

@[simp] theorem Stays.drawn {s t : State} (h : Stays s t) : Stays s t.drawn := by apply h.congr <;> simp

@[simp] theorem Stays.drawnIf {s t : State} (h : Stays s t) (p : Bool) : Stays s (t.drawnIf p) := by
  apply h.congr <;> simp

/-- A write of SR stays when it keeps the system byte but the apollo-bit. -/
theorem Stays.setSr {s t : State} (h : Stays s t) (f : StatusReg) (sys : f.sys &&& 0xF7 = s.sr.sys &&& 0xF7) :
    Stays s (t.setSr f) :=
  ⟨h.toKept.congr rfl rfl rfl rfl (sys.trans h.fixed.sys.symm) rfl, h.pc⟩

/-- A write of the flags. -/
theorem Stays.setFlags {s t : State} (h : Stays s t) (f : StatusReg) (sys : f.sys = s.sr.sys) : Stays s (t.setSr f) :=
  h.setSr f (by rw [sys])

theorem locate_stays (sz : Size) (ext : Addr) (xx : BitVec 2) (ea : Ea) (s : State) :
    Stays s (locate sz ext xx ea s).st := by
  cases ea <;> simp [locate]

theorem veaAt_stays (vea : Vea) (s : State) : Stays s (veaAt vea s).st := by
  cases vea <;> simp [veaAt, locateVea]

/-- A store stays: no selected byte is program text and all are data addresses (rules R72, R80). -/
theorem storeBytes_stays {s t : State} (h : Stays s t) (a : Addr) (bs : List (Option Byte)) :
    Ends (Stays s) (storeBytes a bs t) := by
  intro u hu
  obtain ⟨noText, allData, rfl⟩ := (storeBytes_eq_next a bs t u).mp hu
  refine ⟨⟨⟨h.fixed.usp, h.fixed.cfg, h.fixed.text, h.fixed.regions, h.fixed.sys⟩,
    fun w => Memory.wf_store bs t.mem a (h.memWf w), fun w x hx => ?_⟩, h.pc⟩
  have outside : x ∉ written a bs := by
    intro hm
    have text := (inText_congr h.fixed.text x).symm.trans (noText x hm)
    have data := (inData_congr h.fixed.regions x).symm.trans (allData x hm)
    simp [text, data] at hx
  rw [byteAt_store_ne t a x bs (h.memWf w) outside]
  exact h.byte w x hx

theorem writeMem_stays {s t : State} (h : Stays s t) (sz : Size) (a : Addr) (v : QWord) :
    Ends (Stays s) (writeMem sz a v t) := storeBytes_stays h a _

theorem writeLoc_stays {s : State} (sz : Size) (l : Located) (h : Stays s l.st) (v : QWord) :
    Ends (Stays s) (writeLoc sz l v) := by
  unfold writeLoc
  cases l.loc with
  | reg r => simp [h]
  | mem a => exact writeMem_stays h sz a v
  | imm w => simp

theorem writeMasked_stays {s : State} (l : Located) (h : Stays s l.st) (v : QWord) (bs : List (Option Byte)) :
    Ends (Stays s) (writeMasked l v bs) := by
  unfold writeMasked
  cases l.loc with
  | reg r => simp [h]
  | mem a => exact storeBytes_stays h a bs
  | imm w => simp

/-! ### Instructions that do not branch -/

/-- Every next state is one that stays, with `pc` past `n` bytes. -/
def Runs (s : State) (n : Nat) (r : Res State) : Prop := Ends (fun t => ∃ u, Stays s u ∧ t = u.advance n) r

theorem runs_finish {s : State} {n m : Nat} {r : Res State} (hn : n = m) (h : Ends (Stays s) r) :
    Runs s m (finish n r) := by
  subst hn
  rw [Runs, ends_finish]
  exact h.mono fun u hu => ⟨u, hu, rfl⟩

/-- An operation that reads first stays if what follows does, whatever was read. -/
theorem ends_of_read {α : Type} {P : State → Prop} (x : Res α) (f : α → Res State) (h : ∀ a, Ends P (f a)) :
    Ends P (andThen x f) := by
  rw [ends_andThen]
  exact fun a _ => h a

/-- A write of a location and then of the flags. -/
theorem writeLoc_setSr_stays {s : State} (sz : Size) (l : Located) (h : Stays s l.st) (v : QWord) (f : StatusReg)
    (sys : f.sys = s.sr.sys) : Ends (Stays s) (andThen (writeLoc sz l v) fun t => .next (t.setSr f)) := by
  rw [ends_andThen]
  exact (writeLoc_stays sz l h v).mono fun t ht => (ends_next _ _).mpr (ht.setFlags f sys)

theorem clear_runs (sz : Size) (p : Prefix) (ea : Ea) (s : State) :
    Runs s (p.bytes + 2 + eaBytes sz ea) (clear sz p ea s) :=
  runs_finish rfl (writeLoc_setSr_stays _ _ (locate_stays ..) _ _ rfl)

theorem extendUnsigned_runs (sz : Size) (p : Prefix) (dn : Reg3) (s : State) :
    Runs s (p.bytes + 2) (extendUnsigned sz p dn s) :=
  runs_finish rfl ((ends_next _ _).mpr (((Stays.refl s).setLong _ _).setFlags _ rfl))

theorem permute_runs (p : Prefix) (a b : Reg4) (p0 p1 p2 p3 : BitVec 3) (s : State) :
    Runs s (p.bytes + 4) (permute p a b p0 p1 p2 p3 s) :=
  runs_finish rfl ((ends_next _ _).mpr ((Stays.refl s).setLong _ _))

theorem moveLong_runs (own : Nat) (p : Prefix) (v : Long) (ea : Ea) (s : State) :
    Runs s (p.bytes + own + eaBytes .l ea) (moveLong own p v ea s) :=
  runs_finish rfl (writeLoc_setSr_stays _ _ (locate_stays ..) _ _ rfl)

theorem runs_lineA {s : State} {n : Nat} {r : Res State} (h : Runs s n r) : Runs s n (lineA s r) :=
  ends_lineA _ s r h

theorem runs_fpuOn {s : State} {n : Nat} {r : Res State} (h : Runs s n r) : Runs s n (fpuOn s r) :=
  ends_fpuOn _ s r h

theorem runs_refused {s : State} {n : Nat} (r : Refusal) : Runs s n (.refused r) := ends_refused _ r

theorem moveToB_runs (p : Prefix) (ea : Ea) (bn : Reg3) (s : State) :
    Runs s (p.bytes + 2 + eaBytes .l ea) (moveToB p ea bn s) :=
  runs_finish rfl (ends_of_read _ _ fun _ => (ends_next _ _).mpr ((locate_stays ..).setLong _ _))

theorem moveExtended_runs (ext : Size → QWord → Long) (sz : Size) (ea : Ea) (dn : Reg3) (s : State) :
    Runs s (2 + eaBytes sz ea) (moveExtended ext sz ea dn s) :=
  runs_finish rfl
    (ends_of_read _ _ fun _ => (ends_next _ _).mpr (((locate_stays ..).setLong _ _).setFlags _ rfl))

theorem movePair_runs (put : State → RegName → QWord → State) (sz : Size) (toMem : Bool) (r1 r2 : RegName) (ea : Ea)
    (s : State) (keeps : ∀ t r v, Stays s t → Stays s (put t r v)) :
    Runs s (4 + eaBytes sz ea) (movePair put sz toMem r1 r2 ea s) := by
  refine runs_finish rfl (ends_of_read _ _ fun p => ?_)
  cases toMem with
  | true =>
    rw [if_pos rfl, ends_andThen]
    refine (writeMem_stays (Stays.refl s) _ _ _).mono fun t ht => ?_
    rw [ends_andThen]
    exact (writeMem_stays ht _ _ _).mono fun u hu => (ends_next _ _).mpr (hu.setFlags _ rfl)
  | false =>
    rw [if_neg (by decide)]
    exact ends_of_read _ _ fun v => (ends_next _ _).mpr ((keeps _ _ _ (keeps _ _ _ (Stays.refl s))).setFlags _ rfl)

theorem fmoveIn_runs (p : Prefix) (fmt : FpFmt) (rp : RoundPrec) (ea : Ea) (fp : Reg3) (s : State) :
    Runs s (p.bytes + 4 + eaBytes fmt.size ea) (Machine.fmoveIn p fmt rp ea fp s) :=
  runs_fpuOn (runs_finish rfl
    (ends_of_read _ _ fun _ => (ends_next _ _).mpr ((((locate_stays ..).drawnIf _).setFp _ _).setFpcc _)))

theorem fmoveOut_runs (value : QWord → QWord → QWord) (draws : QWord → Bool) (p : Prefix) (fmt : FpFmt) (fp : Reg3)
    (ea : Ea) (s : State) :
    Runs s (p.bytes + 4 + eaBytes fmt.size ea) (Machine.fmoveOut value draws p fmt fp ea s) := by
  refine runs_fpuOn (runs_finish rfl ?_)
  rw [ends_andThen]
  exact (writeLoc_stays _ ⟨_, _⟩ ((locate_stays ..).drawnIf _) _).mono fun t ht => (ends_next _ _).mpr (ht.setFpcc _)

theorem classL_runs (f : QWord → QWord → QWord) (vea : Vea) (b d : Reg5) (s : State) :
    Runs s (ammxBytes vea) (classL f vea b d s) :=
  runs_finish rfl (ends_of_read _ _ fun _ => (ends_next _ _).mpr ((veaAt_stays vea s).setQuad _ _))

theorem classLPair_runs (f g : QWord → QWord → QWord) (vea : Vea) (b d : Reg5) (s : State) :
    Runs s (ammxBytes vea) (classLPair f g vea b d s) :=
  runs_finish rfl
    (ends_of_read _ _ fun _ => (ends_next _ _).mpr (((veaAt_stays vea s).setQuad _ _).setQuad _ _))

theorem classS_runs (v : QWord) (vea : Vea) (s : State) : Runs s (ammxBytes vea) (classS v vea s) :=
  runs_finish rfl (writeLoc_stays _ _ (veaAt_stays vea s) v)

theorem classSMasked_runs (v : QWord) (p : Nat → Bool) (vea : Vea) (s : State) :
    Runs s (ammxBytes vea) (classSMasked v p vea s) :=
  runs_finish rfl (writeMasked_stays _ (veaAt_stays vea s) v _)

theorem copy16_stays (src dst : Addr) (s : State) : Ends (Stays s) (copy16 src dst s) :=
  ends_ite _ _ _ _ (fun _ => ends_refused _ _) fun _ => ends_of_read _ _ fun _ => storeBytes_stays (Stays.refl s) _ _

/-- A copy of 16 bytes and then steps of address registers. -/
theorem copy16_then_stays (src dst : Addr) (s : State) (f : State → State) (keeps : ∀ t, Stays s t → Stays s (f t)) :
    Ends (Stays s) (andThen (copy16 src dst s) fun t => .next (f t)) := by
  rw [ends_andThen]
  exact (copy16_stays src dst s).mono fun t ht => (ends_next _ _).mpr (keeps t ht)

/-! ### Lengths of encodings -/

@[simp] theorem immWords_length (sz : Size) (v : QWord) : (immWords sz v).length = sz.immWords := by cases sz <;> rfl

@[simp] theorem eaWords_length (sz : Size) (ea : Ea) : (eaWords sz ea).length = ea.extWords sz := by
  cases ea with
  | imm v => exact immWords_length sz v
  | _ => rfl

@[simp] theorem veaWords_length (vea : Vea) : (veaWords vea).length = vea.extWords := by cases vea <;> rfl

@[simp] theorem dispWords_length (d : FullDisp) : (dispWords d).length = d.words := by cases d <;> rfl

@[simp] theorem iisWords_length (d : Indirection) : (iisWords d).length = d.words := by
  cases d with
  | none => rfl
  | pre od => exact dispWords_length od
  | post od => exact dispWords_length od

@[simp] theorem indexExtWords_length (ext : IndexExt) : (indexExtWords ext).length = ext.words := by
  cases ext with
  | brief e => rfl
  | full e => simp [indexExtWords, IndexExt.words]; omega

theorem ammxBytes_eq (op : Byte) (vea : Vea) (b d : Reg5) : ammxBytes vea = 2 * (ammxWords op vea b d).length := by
  simp [ammxBytes, ammxWords]; omega

/-- Bytes of an instruction with `k` words before its `<ea>`'s extension words. -/
theorem eaBytes_eq (k : Nat) (sz : Size) (ea : Ea) : 2 * k + eaBytes sz ea = 2 * ((eaWords sz ea).length + k) := by
  simp [eaBytes]; omega

theorem Runs.of_length {s : State} {n m : Nat} {r : Res State} (h : Runs s n r) (e : n = m) : Runs s m r := e ▸ h

theorem fmoveStore_runs (p : Prefix) (fmt : FpFmt) (fp : Reg3) (ea : Ea) (s : State) :
    Runs s (p.bytes + 4 + eaBytes fmt.size ea) (fmoveStore p fmt fp ea s) := by
  rw [fmoveStore]
  exact fmoveOut_runs _ _ p fmt fp ea s

theorem fmoveTrunc_runs (p : Prefix) (fmt : FpFmt) (fp : Reg3) (ea : Ea) (s : State) :
    Runs s (p.bytes + 4 + eaBytes fmt.size ea) (fmoveTrunc p fmt fp ea s) := by
  rw [fmoveTrunc]
  exact fmoveOut_runs _ _ p fmt fp ea s

theorem fmoveTruncU_runs (p : Prefix) (fmt : FpFmt) (fp : Reg3) (ea : Ea) (s : State) :
    Runs s (p.bytes + 4 + eaBytes fmt.size ea) (fmoveTruncU p fmt fp ea s) := by
  rw [fmoveTruncU]
  exact fmoveOut_runs _ _ p fmt fp ea s

/-- Every next state of the instruction has `pc` after its last word, and what no rule lets it change as it was (rules R13,
R29). -/
def EndsPastWords (i : Instr) (s : State) : Prop := Runs s (2 * (encode s.cfg i).length) (exec i s)

/-- The instruction a bundle holds runs with the bundle's length (rules R139, R140). -/
theorem execInner_runs (p : BankPrefix) (inner : Instr) (s : State) :
    Runs s (2 * (encode s.cfg (.bank p inner)).length) (execInner (.ofBank p) inner s) := by
  cases inner with
  | moviw imm ea => exact (runs_lineA (moveLong_runs 4 _ _ ea s)).of_length (eaBytes_eq 3 .l ea)
  | clrB ea => exact (clear_runs .b _ ea s).of_length (eaBytes_eq 2 .b ea)
  | clrW ea => exact (clear_runs .w _ ea s).of_length (eaBytes_eq 2 .w ea)
  | clrL ea => exact (clear_runs .l _ ea s).of_length (eaBytes_eq 2 .l ea)
  | extub dn => exact extendUnsigned_runs .b _ dn s
  | extuw dn => exact extendUnsigned_runs .w _ dn s
  | perm a b p0 p1 p2 p3 => exact permute_runs _ a b p0 p1 p2 p3 s
  | moveBnEa bn ea => exact (moveLong_runs 2 _ _ ea s).of_length (eaBytes_eq 2 .l ea)
  | moveaEaBn ea bn => exact (moveToB_runs _ ea bn s).of_length (eaBytes_eq 2 .l ea)
  | fmoveEaFp fmt rp ea fp => exact (fmoveIn_runs _ fmt rp ea fp s).of_length (eaBytes_eq 3 fmt.size ea)
  | fmoveFpEa fmt fp ea => exact (fmoveStore_runs _ fmt fp ea s).of_length (eaBytes_eq 3 fmt.size ea)
  | fmoverz fmt fp ea => exact (fmoveTrunc_runs _ fmt fp ea s).of_length (eaBytes_eq 3 fmt.size ea)
  | fmoveurz fmt fp ea => exact (fmoveTruncU_runs _ fmt fp ea s).of_length (eaBytes_eq 3 fmt.size ea)
  | _ => exact runs_refused _

/-- Clearing or setting the apollo-bit leaves the other bits of the system byte. -/
theorem setApollo_sys (f : StatusReg) : f.setApollo.sys &&& 0xF7 = f.sys &&& 0xF7 := by
  have h : ∀ b : Byte, (b ||| 0x08) &&& 0xF7 = b &&& 0xF7 := by decide
  exact h f.sys

theorem clearApollo_sys (f : StatusReg) : f.clearApollo.sys &&& 0xF7 = f.sys &&& 0xF7 := by
  have h : ∀ b : Byte, (b &&& 0xF7) &&& 0xF7 = b &&& 0xF7 := by decide
  exact h f.sys

theorem endsPastWords_bank (p : BankPrefix) (inner : Instr) (s : State) : EndsPastWords (.bank p inner) s := by
  rw [EndsPastWords, show exec _ s = execBank p inner s from rfl, execBank]
  split
  · exact runs_refused _
  · exact execInner_runs p inner s

/-- Arithmetic of 40_integer_1.md and 41_integer_2.md sections 12 and 13. -/
theorem endsPastWords_arithmetic (s : State) :
    (∀ imm ea, EndsPastWords (.addiw imm ea) s) ∧ (∀ data bn, EndsPastWords (.addqBn data bn) s) ∧
    (∀ data bn, EndsPastWords (.subqBn data bn) s) ∧ (∀ bn dn, EndsPastWords (.cmpBnDn bn dn) s) ∧
    (∀ imm ea, EndsPastWords (.cmpiw imm ea) s) ∧ (∀ dn, EndsPastWords (.extub dn) s) ∧
    (∀ dn, EndsPastWords (.extuw dn) s) ∧ ∀ a b p0 p1 p2 p3, EndsPastWords (.perm a b p0 p1 p2 p3) s := by
  have here := Stays.refl s
  refine ⟨fun imm ea => ?addiw, fun data bn => ?addqBn, fun data bn => ?subqBn, fun bn dn => ?cmpBnDn,
    fun imm ea => ?cmpiw, fun dn => extendUnsigned_runs .b _ dn s, fun dn => extendUnsigned_runs .w _ dn s,
    fun a b p0 p1 p2 p3 => permute_runs _ a b p0 p1 p2 p3 s⟩
  case addiw =>
    refine ends_of_read _ _ fun d => runs_finish (eaBytes_eq 2 .l ea) ?_
    exact writeLoc_setSr_stays _ _ (locate_stays ..) _ _ rfl
  case addqBn => exact runs_finish rfl ((ends_next _ _).mpr ((here.setLong _ _).setFlags _ (by split <;> rfl)))
  case subqBn => exact runs_finish rfl ((ends_next _ _).mpr ((here.setLong _ _).setFlags _ (by split <;> rfl)))
  case cmpBnDn => exact runs_finish rfl ((ends_next _ _).mpr (here.setFlags (s.sr.compared _ _) rfl))
  case cmpiw =>
    exact runs_finish (eaBytes_eq 2 .l ea)
      (ends_of_read _ _ fun d => (ends_next _ _).mpr ((locate_stays ..).setFlags _ rfl))

theorem endsPastWords_clr (ea : Ea) (s : State) :
    EndsPastWords (.clrQ ea) s ∧ EndsPastWords (.clrB ea) s ∧ EndsPastWords (.clrW ea) s ∧ EndsPastWords (.clrL ea) s :=
  ⟨(runs_lineA (clear_runs .q _ ea s)).of_length (eaBytes_eq 1 .q ea),
    (clear_runs .b _ ea s).of_length (eaBytes_eq 1 .b ea), (clear_runs .w _ ea s).of_length (eaBytes_eq 1 .w ea),
    (clear_runs .l _ ea s).of_length (eaBytes_eq 1 .l ea)⟩

/-- The moves of one datum (40_integer_1.md section 11, 41_integer_2.md sections 1 to 3, 9 and 10). -/
theorem endsPastWords_move (ea : Ea) (s : State) :
    (∀ bn, EndsPastWords (.leaEaBn ea bn) s) ∧ (∀ bn an, EndsPastWords (.leaBnAn bn an) s) ∧
    (∀ data, EndsPastWords (.mov3q data ea) s) ∧ (∀ bn, EndsPastWords (.moveBnEa bn ea) s) ∧
    (∀ bn, EndsPastWords (.moveaEaBn ea bn) s) ∧ EndsPastWords (.moveSrEa ea) s ∧
    (∀ imm, EndsPastWords (.moviw imm ea) s) ∧ (∀ sz dn, EndsPastWords (.movs sz ea dn) s) ∧
    ∀ sz dn, EndsPastWords (.movz sz ea dn) s := by
  have here := Stays.refl s
  refine ⟨fun bn => ?leaEaBn, fun bn an => ?leaBnAn, fun data => ?mov3q, fun bn => ?moveBnEa, fun bn => ?moveaEaBn,
    ?moveSrEa, fun imm => ?moviw, fun sz dn => ?movs, fun sz dn => ?movz⟩
  case leaEaBn =>
    exact runs_finish (eaBytes_eq 1 .l ea) (ends_of_read _ _ fun a => (ends_next _ _).mpr (here.setLong _ _))
  case leaBnAn => exact runs_finish rfl ((ends_next _ _).mpr (here.setLong _ _))
  case mov3q => exact (runs_lineA (moveLong_runs 2 _ _ ea s)).of_length (eaBytes_eq 1 .l ea)
  case moveBnEa => exact (moveLong_runs 2 _ _ ea s).of_length (eaBytes_eq 1 .l ea)
  case moveaEaBn => exact (moveToB_runs _ ea bn s).of_length (eaBytes_eq 1 .l ea)
  case moveSrEa => exact runs_finish (eaBytes_eq 1 .w ea) (writeLoc_stays _ _ (locate_stays ..) _)
  case moviw => exact (runs_lineA (moveLong_runs 4 _ _ ea s)).of_length (eaBytes_eq 2 .l ea)
  case movs => exact (runs_lineA (moveExtended_runs _ sz ea dn s)).of_length (eaBytes_eq 1 sz ea)
  case movz => exact (runs_lineA (moveExtended_runs _ sz ea dn s)).of_length (eaBytes_eq 1 sz ea)

/-- MOVE2, the old MOVE2, MOVEH, MOVEX and MOVZ2 (41_integer_2.md sections 5, 7, 8 and 11). -/
theorem endsPastWords_ext0E (ea : Ea) (s : State) :
    (∀ sz toMem b c, EndsPastWords (.move2 sz toMem b c ea) s) ∧
    (∀ sz toMem b, EndsPastWords (.move2Old sz toMem b ea) s) ∧ (∀ toMem b, EndsPastWords (.moveh toMem b ea) s) ∧
    (∀ sz toEa b, EndsPastWords (.movex sz toEa b ea) s) ∧ ∀ sz b c, EndsPastWords (.movz2 sz b c ea) s := by
  have here := Stays.refl s
  refine ⟨fun sz toMem b c => ?move2, fun sz toMem b => ?move2Old, fun toMem b => ?moveh, fun sz toEa b => ?movex,
    fun sz b c => ?movz2⟩
  case move2 =>
    rw [EndsPastWords, show exec _ s = execMove2 sz toMem b c ea s from rfl, execMove2]
    exact (movePair_runs _ sz toMem _ _ ea s fun t r v ht => ht.setPart _ _ _).of_length (eaBytes_eq 2 sz ea)
  case move2Old =>
    rw [EndsPastWords, show exec _ s = execMove2Old sz toMem b ea s from rfl, execMove2Old]
    exact (movePair_runs _ sz toMem _ _ ea s fun t r v ht => ht.setLong _ _).of_length (eaBytes_eq 2 sz ea)
  case moveh =>
    refine runs_finish (eaBytes_eq 2 .w ea) (ends_of_read _ _ fun _ => ends_ite _ _ _ _ (fun _ => ?_) fun _ => ?_)
    · rw [ends_andThen]
      exact (writeMem_stays here _ _ _).mono fun t ht => (ends_next _ _).mpr (ht.setFlags _ rfl)
    · exact ends_of_read _ _ fun v => (ends_next _ _).mpr ((here.setLong _ _).setFlags _ rfl)
  case movex =>
    refine runs_finish (eaBytes_eq 2 sz ea) (ends_ite _ _ _ _ (fun _ => ?_) fun _ => ?_)
    · exact writeLoc_setSr_stays _ _ (locate_stays ..) _ _ rfl
    · exact ends_of_read _ _ fun v => (ends_next _ _).mpr (((locate_stays ..).setPart _ _ _).setFlags _ rfl)
  case movz2 =>
    refine runs_finish (eaBytes_eq 2 sz ea)
      (ends_of_read _ _ fun _ => ends_of_read _ _ fun _ => ends_ite _ _ _ _ (fun _ => ?_) fun _ => ?_)
    · exact (ends_next _ _).mpr (((here.setLong _ _).setLong _ _).drawn.setFlags _ rfl)
    · exact (ends_next _ _).mpr (((here.setLong _ _).setLong _ _).setFlags _ rfl)

/-- The SR immediates and MOVEC (41_integer_2.md sections 3 and 6). -/
theorem endsPastWords_system (s : State) :
    (∀ imm, EndsPastWords (.oriSr imm) s) ∧ (∀ imm, EndsPastWords (.andiSr imm) s) ∧
    (∀ rn creg, EndsPastWords (.movecRcRn rn creg) s) ∧ ∀ rn creg, EndsPastWords (.movecRnRc rn creg) s := by
  have here := Stays.refl s
  have otherImmediate (n : Nat) :
      Runs s n (if s.sr.supervisor then .refused .legacySrImmediate else raise .privilegeViolation s.pc s) :=
    ends_ite _ _ _ _ (fun _ => ends_refused _ _) fun _ => ends_raise _ _ _ _
  refine ⟨fun imm => ?oriSr, fun imm => ?andiSr, fun rn creg => ?movecRcRn, fun rn creg => ?movecRnRc⟩
  case oriSr =>
    refine ends_ite _ _ _ _ (fun _ => runs_finish rfl ?_) fun _ => otherImmediate _
    exact (ends_next _ _).mpr (here.setSr _ (setApollo_sys s.sr))
  case andiSr =>
    refine ends_ite _ _ _ _ (fun _ => runs_finish rfl ?_) fun _ => otherImmediate _
    exact (ends_next _ _).mpr (here.setSr _ (clearApollo_sys s.sr))
  case movecRcRn =>
    refine runs_finish rfl ?_
    split
    · exact ends_refused _ _
    · exact (ends_next _ _).mpr (here.setLong _ _)
    · exact (ends_next _ _).mpr ((here.drawn.setCounters _).setLong _ _)
  case movecRnRc =>
    refine ends_ite _ _ _ _ (fun _ => runs_finish rfl ?_) fun _ => ends_raise _ _ _ _
    split
    · exact ends_refused _ _
    · exact ends_ite _ _ _ _ (fun _ => (ends_next _ _).mpr (here.setPcr _)) fun _ => ends_refused _ _
    · exact ends_refused _ _

/-- MOVE16 and TOUCH (41_integer_2.md sections 4 and 14). -/
theorem endsPastWords_transfer (s : State) :
    (∀ ax ay, EndsPastWords (.move16PiPi ax ay) s) ∧ (∀ an l, EndsPastWords (.move16PiAbs an l) s) ∧
    (∀ l an, EndsPastWords (.move16AbsPi l an) s) ∧ (∀ an l, EndsPastWords (.move16AnAbs an l) s) ∧
    (∀ l an, EndsPastWords (.move16AbsAn l an) s) ∧ (∀ an ext, EndsPastWords (.touchIndex an ext) s) ∧
    ∀ an, EndsPastWords (.touchAn an) s := by
  refine ⟨fun ax ay => ?piPi, fun an l => ?piAbs, fun l an => ?absPi, fun an l => runs_finish rfl (copy16_stays _ _ s),
    fun l an => runs_finish rfl (copy16_stays _ _ s), fun an ext => ?touchIndex,
    fun an => runs_finish rfl ((ends_next _ _).mpr (Stays.refl s))⟩
  case piPi =>
    exact ends_ite _ _ _ _ (fun _ => ends_refused _ _) fun _ =>
      runs_finish rfl (copy16_then_stays _ _ _ _ fun t ht => (ht.setLong _ _).setLong _ _)
  case piAbs => exact runs_finish rfl (copy16_then_stays _ _ _ _ fun t ht => ht.setLong _ _)
  case absPi => exact runs_finish rfl (copy16_then_stays _ _ _ _ fun t ht => ht.setLong _ _)
  case touchIndex =>
    exact runs_finish (by simp [touchBytes, encode]; omega) ((ends_next _ _).mpr (Stays.refl s))

/-- FMOVE, FMOVERZ, FMOVEURZ and their bundles (44_float.md). -/
theorem endsPastWords_float (s : State) :
    (∀ fmt rp ea fp, EndsPastWords (.fmoveEaFp fmt rp ea fp) s) ∧ (∀ fmt fp ea, EndsPastWords (.fmoveFpEa fmt fp ea) s) ∧
    (∀ fmt fp ea, EndsPastWords (.fmoverz fmt fp ea) s) ∧ (∀ fmt fp ea, EndsPastWords (.fmoveurz fmt fp ea) s) ∧
    (∀ (p : BankPrefix) fmt rp dn fp, EndsPastWords (.floadi p fmt rp dn fp) s) ∧
    ∀ (p : BankPrefix) fmt fp dn, EndsPastWords (.fstorei p fmt fp dn) s :=
  ⟨fun fmt rp ea fp => (fmoveIn_runs _ fmt rp ea fp s).of_length (eaBytes_eq 2 fmt.size ea),
    fun fmt fp ea => (fmoveStore_runs _ fmt fp ea s).of_length (eaBytes_eq 2 fmt.size ea),
    fun fmt fp ea => (fmoveTrunc_runs _ fmt fp ea s).of_length (eaBytes_eq 2 fmt.size ea),
    fun fmt fp ea => (fmoveTruncU_runs _ fmt fp ea s).of_length (eaBytes_eq 2 fmt.size ea),
    fun _ fmt rp dn fp => fmoveIn_runs _ fmt rp (.dn dn) fp s, fun _ fmt fp dn => fmoveStore_runs _ fmt fp (.dn dn) s⟩

theorem exec_load (vea : Vea) (d : Reg5) (s : State) : exec (.load vea d) s = classL (fun a _ => a) vea 0 d s := rfl

/-- A class L instruction (rule R105). -/
theorem endsPastWords_classL {i : Instr} {op : Byte} {f : QWord → QWord → QWord} {vea : Vea} {b d : Reg5} {s : State}
    (meaning : exec i s = classL f vea b d s) (encoding : encode s.cfg i = ammxWords op vea b d) :
    EndsPastWords i s := by
  rw [EndsPastWords, meaning, encoding]
  exact (classL_runs f vea b d s).of_length (ammxBytes_eq op vea b d)

/-- The other AMMX instructions that write registers (rules R105, R222). -/
theorem endsPastWords_ammxPair (s : State) :
    (∀ vea b d, EndsPastWords (.bflyb vea b d) s) ∧ (∀ vea b d, EndsPastWords (.bflyw vea b d) s) ∧
    (∀ vea d, EndsPastWords (.unpack1632 vea d) s) ∧ (∀ vea b d, EndsPastWords (.bsel vea b d) s) ∧
    (∀ vea d, EndsPastWords (.loadi vea d) s) ∧ (∀ grp d, EndsPastWords (.minterm grp d) s) ∧
    (∀ grp d, EndsPastWords (.transhi grp d) s) ∧ (∀ grp d, EndsPastWords (.translo grp d) s) ∧
    ∀ a b d sel, EndsPastWords (.vperm a b d sel) s := by
  have here := Stays.refl s
  refine ⟨fun vea b d => (classLPair_runs _ _ vea b d s).of_length (ammxBytes_eq 0x1C vea b d),
    fun vea b d => (classLPair_runs _ _ vea b d s).of_length (ammxBytes_eq 0x1D vea b d),
    fun vea d => ?unpack1632, fun vea b d => ?bsel,
    fun vea d => ?loadi, fun grp d => runs_finish rfl ((ends_next _ _).mpr (here.setQuad _ _)),
    fun grp d => runs_finish rfl ((ends_next _ _).mpr ((here.setQuad _ _).setQuad _ _)),
    fun grp d => runs_finish rfl ((ends_next _ _).mpr ((here.setQuad _ _).setQuad _ _)),
    fun a b d sel => runs_finish rfl ((ends_next _ _).mpr (here.setQuad _ _))⟩
  case unpack1632 =>
    rw [EndsPastWords, show exec _ s = execUnpack1632 vea d s from rfl, execUnpack1632]
    exact (classLPair_runs _ _ vea 0 d s).of_length (ammxBytes_eq 0x1E vea 0 d)
  case bsel =>
    exact runs_finish (ammxBytes_eq 0x29 vea b d)
      (ends_of_read _ _ fun a => (ends_next _ _).mpr ((veaAt_stays vea s).setQuad _ _))
  case loadi =>
    rw [EndsPastWords, show exec _ s = execLoadi vea d s from rfl, execLoadi]
    split
    · exact runs_refused _
    · exact runs_finish (ammxBytes_eq 0x01 vea 1 d)
        (ends_of_read _ _ fun v => (ends_next _ _).mpr ((veaAt_stays vea s).setQuad _ _))

/-- The AMMX stores (rules R241, R242, R293 to R299). -/
theorem endsPastWords_ammxStore (vea : Vea) (s : State) :
    (∀ b d, EndsPastWords (.pack3216 b d vea) s) ∧ (∀ b d, EndsPastWords (.packuswb b d vea) s) ∧
    (∀ b, EndsPastWords (.store b vea) s) ∧ (∀ b, EndsPastWords (.storei b vea) s) ∧
    (∀ b d, EndsPastWords (.storec b d vea) s) ∧ (∀ b d, EndsPastWords (.storeilm b d vea) s) ∧
    (∀ b d, EndsPastWords (.storem b d vea) s) ∧ ∀ b mode xx, EndsPastWords (.storem3 b mode xx vea) s := by
  refine ⟨fun b d => (classS_runs _ vea s).of_length (ammxBytes_eq 0x07 vea b d),
    fun b d => (classS_runs _ vea s).of_length (ammxBytes_eq 0x06 vea b d),
    fun b => (classS_runs _ vea s).of_length (ammxBytes_eq 0x04 vea b 0), fun b => ?storei,
    fun b d => (classSMasked_runs _ _ vea s).of_length (ammxBytes_eq 0x24 vea b d),
    fun b d => (classSMasked_runs _ _ vea s).of_length (ammxBytes_eq 0x05 vea b d),
    fun b d => (classSMasked_runs _ _ vea s).of_length (ammxBytes_eq 0x25 vea b d), fun b mode xx =>
      (classSMasked_runs _ _ vea s).of_length (ammxBytes_eq (s.cfg.storem3.getD 0x25) vea b (0#1 ++ xx ++ mode))⟩
  rw [EndsPastWords, show exec _ s = execStorei b vea s from rfl, execStorei]
  split
  · exact runs_refused _
  · exact (classS_runs _ vea s).of_length (ammxBytes_eq 0x04 vea b 1)

/-- Every instruction that is no branch ends with `pc` after its last word, and with what no rule lets it change as it
was (rules R13, R29). -/
theorem endsPastWords (i : Instr) (s : State) (noBranch : branches i = false) : EndsPastWords i s := by
  obtain ⟨addiw, addqBn, subqBn, cmpBnDn, cmpiw, extub, extuw, perm⟩ := endsPastWords_arithmetic s
  obtain ⟨oriSr, andiSr, movecRcRn, movecRnRc⟩ := endsPastWords_system s
  obtain ⟨piPi, piAbs, absPi, anAbs, absAn, touchIndex, touchAn⟩ := endsPastWords_transfer s
  obtain ⟨fmoveEaFp, fmoveFpEa, fmoverz, fmoveurz, floadi, fstorei⟩ := endsPastWords_float s
  obtain ⟨bflyb, bflyw, unpack1632, bsel, loadi, minterm, transhi, translo, vperm⟩ := endsPastWords_ammxPair s
  have clr := fun ea => endsPastWords_clr ea s
  have move := fun ea => endsPastWords_move ea s
  have ext0E := fun ea => endsPastWords_ext0E ea s
  have ammxStore := fun vea => endsPastWords_ammxStore vea s
  cases i with
  | addiw imm ea => exact addiw imm ea
  | addqBn data bn => exact addqBn data bn
  | subqBn data bn => exact subqBn data bn
  | cmpBnDn bn dn => exact cmpBnDn bn dn
  | cmpiw imm ea => exact cmpiw imm ea
  | extub dn => exact extub dn
  | extuw dn => exact extuw dn
  | perm a b p0 p1 p2 p3 => exact perm a b p0 p1 p2 p3
  | oriSr imm => exact oriSr imm
  | andiSr imm => exact andiSr imm
  | movecRcRn rn creg => exact movecRcRn rn creg
  | movecRnRc rn creg => exact movecRnRc rn creg
  | touchIndex an ext => exact touchIndex an ext
  | touchAn an => exact touchAn an
  | fmoveEaFp fmt rp ea fp => exact fmoveEaFp fmt rp ea fp
  | fmoveFpEa fmt fp ea => exact fmoveFpEa fmt fp ea
  | fmoverz fmt fp ea => exact fmoverz fmt fp ea
  | fmoveurz fmt fp ea => exact fmoveurz fmt fp ea
  | floadi p fmt rp dn fp => exact floadi p fmt rp dn fp
  | fstorei p fmt fp dn => exact fstorei p fmt fp dn
  | bflyb vea b d => exact bflyb vea b d
  | bflyw vea b d => exact bflyw vea b d
  | unpack1632 vea d => exact unpack1632 vea d
  | bsel vea b d => exact bsel vea b d
  | loadi vea d => exact loadi vea d
  | minterm grp d => exact minterm grp d
  | transhi grp d => exact transhi grp d
  | translo grp d => exact translo grp d
  | vperm a b d sel => exact vperm a b d sel
  | move16PiPi ax ay => exact piPi ax ay
  | move16PiAbs an l => exact piAbs an l
  | move16AbsPi l an => exact absPi l an
  | move16AnAbs an l => exact anAbs an l
  | move16AbsAn l an => exact absAn l an
  | bank p inner => exact endsPastWords_bank p inner s
  | clrQ ea =>
    obtain ⟨h, -⟩ := clr ea
    exact h
  | clrB ea =>
    obtain ⟨-, h, -⟩ := clr ea
    exact h
  | clrW ea =>
    obtain ⟨-, -, h, -⟩ := clr ea
    exact h
  | clrL ea =>
    obtain ⟨-, -, -, h⟩ := clr ea
    exact h
  | leaEaBn ea bn =>
    obtain ⟨h, -⟩ := move ea
    exact h bn
  | leaBnAn bn an =>
    obtain ⟨-, h, -⟩ := move (.dn 0)
    exact h bn an
  | mov3q data ea =>
    obtain ⟨-, -, h, -⟩ := move ea
    exact h data
  | moveBnEa bn ea =>
    obtain ⟨-, -, -, h, -⟩ := move ea
    exact h bn
  | moveaEaBn ea bn =>
    obtain ⟨-, -, -, -, h, -⟩ := move ea
    exact h bn
  | moveSrEa ea =>
    obtain ⟨-, -, -, -, -, h, -⟩ := move ea
    exact h
  | moviw imm ea =>
    obtain ⟨-, -, -, -, -, -, h, -⟩ := move ea
    exact h imm
  | movs sz ea dn =>
    obtain ⟨-, -, -, -, -, -, -, h, -⟩ := move ea
    exact h sz dn
  | movz sz ea dn =>
    obtain ⟨-, -, -, -, -, -, -, -, h⟩ := move ea
    exact h sz dn
  | move2 sz toMem b c ea =>
    obtain ⟨h, -⟩ := ext0E ea
    exact h sz toMem b c
  | move2Old sz toMem b ea =>
    obtain ⟨-, h, -⟩ := ext0E ea
    exact h sz toMem b
  | moveh toMem b ea =>
    obtain ⟨-, -, h, -⟩ := ext0E ea
    exact h toMem b
  | movex sz toEa b ea =>
    obtain ⟨-, -, -, h, -⟩ := ext0E ea
    exact h sz toEa b
  | movz2 sz b c ea =>
    obtain ⟨-, -, -, -, h⟩ := ext0E ea
    exact h sz b c
  | pack3216 b d vea =>
    obtain ⟨h, -⟩ := ammxStore vea
    exact h b d
  | packuswb b d vea =>
    obtain ⟨-, h, -⟩ := ammxStore vea
    exact h b d
  | store b vea =>
    obtain ⟨-, -, h, -⟩ := ammxStore vea
    exact h b
  | storei b vea =>
    obtain ⟨-, -, -, h, -⟩ := ammxStore vea
    exact h b
  | storec b d vea =>
    obtain ⟨-, -, -, -, h, -⟩ := ammxStore vea
    exact h b d
  | storeilm b d vea =>
    obtain ⟨-, -, -, -, -, h, -⟩ := ammxStore vea
    exact h b d
  | storem b d vea =>
    obtain ⟨-, -, -, -, -, -, h, -⟩ := ammxStore vea
    exact h b d
  | storem3 b mode xx vea =>
    obtain ⟨-, -, -, -, -, -, -, h⟩ := ammxStore vea
    exact h b mode xx
  | tex _ _ _ _ _ _ _ _ => exact runs_refused _
  | texB _ _ _ _ _ => exact runs_refused _
  | bhi _ | bls _ | bcc _ | bcs _ | bne _ | beq _ | bvc _ | bvs _ | bpl _ | bmi _ | bge _ | blt _ | bgt _ | ble _
  | bra _ | bsr _ | dbccL _ _ _ | fdbccL _ _ _ => cases noBranch
  | c2p vea d => exact endsPastWords_classL (exec_c2p vea d s) rfl
  | load vea d => exact endsPastWords_classL (exec_load vea d s) rfl
  | lslq vea b d => exact endsPastWords_classL (exec_lslq vea b d s) rfl
  | lsrq vea b d => exact endsPastWords_classL (exec_lsrq vea b d s) rfl
  | _ => exact endsPastWords_classL rfl rfl

/-- Settles O4. -/
theorem nextIsTheAddressAfterTheLastWord : Obligations.NextIsTheAddressAfterTheLastWord := by
  unfold Obligations.NextIsTheAddressAfterTheLastWord
  intro i s t _ noBranch done
  obtain ⟨u, stays, rfl⟩ := endsPastWords i s noBranch t done
  rw [State.advance_pc, stays.pc]

/-! ### Branches -/

theorem even_iff (x : Addr) : x.getLsbD 0 = false ↔ x.toNat % 2 = 0 := by
  rw [BitVec.getLsbD, Nat.testBit_zero, decide_eq_false_iff_not]
  omega

/-- The sum of even addresses is even. -/
theorem even_add {x y : Addr} (hx : x.getLsbD 0 = false) (hy : y.getLsbD 0 = false) :
    (x + y).getLsbD 0 = false := by
  rw [even_iff] at *
  rw [BitVec.toNat_add]
  omega

/-- An even number of bytes. -/
theorem even_two_mul (n : Nat) : (BitVec.ofNat 32 (2 * n)).getLsbD 0 = false := by
  rw [even_iff, BitVec.toNat_ofNat]
  omega

/-- A displacement is even: of an even byte the byte itself, of an odd one the s+ range (rule R141). -/
theorem branchDisp_even {d8 : Byte} {disp : Int} (h : branchDisp d8 = some disp) : disp % 2 = 0 := by
  have all : ∀ b : Byte, (branchDisp b).all (fun d => d % 2 == 0) = true := by decide
  simpa [h] using all d8

theorem ofInt_even {i : Int} (h : i % 2 = 0) : (BitVec.ofInt 32 i).getLsbD 0 = false := by
  rw [even_iff, BitVec.toNat_ofInt]
  omega

theorem evenDisp_even (w : Word) : (evenDisp w).getLsbD 0 = false := by
  simp [evenDisp]

/-- What an instruction gives a step: `Kept`, and an even `pc` from an even one. -/
def KeptEven (s t : State) : Prop := Kept s t ∧ (s.pc.getLsbD 0 = false → t.pc.getLsbD 0 = false)

theorem keptEven_setPc {s t : State} (h : Kept s t) (a : Addr) (even : s.pc.getLsbD 0 = false → a.getLsbD 0 = false) :
    KeptEven s (t.setPc a) := ⟨h.congr rfl rfl rfl rfl rfl rfl, even⟩

theorem branchIf_keptEven (cc : BitVec 4) (d8 : Byte) (s : State) : Ends (KeptEven s) (branchIf cc d8 s) := by
  unfold branchIf
  split
  · exact ends_refused _ _
  · next disp hd =>
    refine (ends_next _ _).mpr (keptEven_setPc (Kept.refl s) _ fun even => ?_)
    have next : (s.pc + 2).getLsbD 0 = false := even_add even rfl
    split
    · exact even_add next (ofInt_even (branchDisp_even hd))
    · exact next

theorem execBsr_keptEven (d8 : Byte) (s : State) : Ends (KeptEven s) (execBsr d8 s) := by
  unfold execBsr
  split
  · exact ends_refused _ _
  · next disp hd =>
    rw [ends_andThen]
    refine (writeMem_stays ((Stays.refl s).setLong _ _) _ _ _).mono fun t ht => ?_
    refine (ends_next _ _).mpr (keptEven_setPc ht.toKept _ fun even => ?_)
    exact even_add (even_add even rfl) (ofInt_even (branchDisp_even hd))

theorem countDown_keptEven (base : Addr) (dn : Reg3) (disp : Word) (s : State)
    (h : s.pc.getLsbD 0 = false → base.getLsbD 0 = false) : KeptEven s (countDown base dn disp s) := by
  refine keptEven_setPc ((Stays.refl s).setLong _ _).toKept _ fun even => ?_
  split
  · exact even_add (h even) rfl
  · exact even_add (h even) (evenDisp_even disp)

theorem execDbccL_keptEven (cond : BitVec 4) (dn : Reg3) (disp : Word) (s : State) :
    Ends (KeptEven s) (execDbccL cond dn disp s) := by
  refine ends_ite _ _ _ _ (fun _ => (ends_next _ _).mpr ?_) fun _ => (ends_next _ _).mpr ?_
  · exact keptEven_setPc (Kept.refl s) _ fun even => even_add even rfl
  · exact countDown_keptEven _ dn disp s fun even => even_add even rfl

theorem execFdbccL_keptEven (pred : BitVec 6) (dn : Reg3) (disp : Word) (s : State) :
    Ends (KeptEven s) (execFdbccL pred dn disp s) := by
  refine ends_fpuOn _ _ _ ?_
  split
  · exact ends_refused _ _
  · exact (ends_next _ _).mpr (keptEven_setPc (Kept.refl s) _ fun even => even_add even rfl)
  · exact (ends_next _ _).mpr (countDown_keptEven _ dn disp s fun even => even_add even rfl)

/-- Every instruction keeps what no rule lets it change, the text, and an even `pc`. -/
theorem exec_keptEven (i : Instr) (s : State) : Ends (KeptEven s) (exec i s) := by
  cases branch : branches i with
  | false =>
    refine (endsPastWords i s branch).mono fun t => ?_
    rintro ⟨u, stays, rfl⟩
    refine keptEven_setPc stays.toKept _ fun even => ?_
    rw [stays.pc]
    exact even_add even (even_two_mul _)
  | true =>
    cases i with
    | bsr d8 => exact execBsr_keptEven d8 s
    | dbccL cond dn disp => exact execDbccL_keptEven cond dn disp s
    | fdbccL pred dn disp => exact execFdbccL_keptEven pred dn disp s
    | bhi d8 | bls d8 | bcc d8 | bcs d8 | bne d8 | beq d8 | bvc d8 | bvs d8 | bpl d8 | bmi d8 | bge d8 | blt d8 | bgt d8
    | ble d8 | bra d8 => exact branchIf_keptEven _ d8 s
    | _ => cases branch

/-! ### The step -/

/-- A step that answers a next state ran the selected instruction to it (rule R17). -/
theorem exec_of_step {s t : State} (h : step s = .next t) : ∃ i, nextInstr s = .next i ∧ exec i s = .next t := by
  obtain ⟨i, selected, h⟩ := (andThen_eq_next _ _ _).mp h
  obtain ⟨u, done, h⟩ := (andThen_eq_next _ _ _).mp h
  refine ⟨i, selected, ?_⟩
  unfold traceAfter at h
  split at h
  · cases h
  · cases h
    exact done

theorem step_keptEven {s t : State} (h : step s = .next t) : KeptEven s t := by
  obtain ⟨i, -, done⟩ := exec_of_step h
  exact exec_keptEven i s t done

/-- Settles O10. -/
theorem stepKeepsPcEvenAndMemoryCanonical : Obligations.StepKeepsPcEvenAndMemoryCanonical := by
  unfold Obligations.StepKeepsPcEvenAndMemoryCanonical
  intro s t inv h
  obtain ⟨kept, even⟩ := step_keptEven h
  exact ⟨even inv.pcEven, kept.memWf inv.memWf⟩

/-- Settles O12. -/
theorem stepKeepsModeTraceBitTextAndParameters : Obligations.StepKeepsModeTraceBitTextAndParameters := by
  unfold Obligations.StepKeepsModeTraceBitTextAndParameters
  intro s t h
  obtain ⟨kept, -⟩ := step_keptEven h
  exact ⟨kept.fixed, fun wf a text => kept.byte wf a (.inl text)⟩

/-- Settles O11. -/
theorem resetHasEvenPcAndCanonicalMemory : Obligations.ResetHasEvenPcAndCanonicalMemory := by
  unfold Obligations.ResetHasEvenPcAndCanonicalMemory
  exact ⟨rfl, rfl⟩

/-! ### The flags and the special registers under AMMX -/

/-- SR, the floating-point condition bits, PCR and the counters as they were (rule R220). -/
def SameStatus (s t : State) : Prop := t.sr = s.sr ∧ t.fpcc = s.fpcc ∧ t.pcr = s.pcr ∧ t.counters = s.counters

theorem sameStatus_setQuad (s t : State) (r : RegName) (v : QWord) : SameStatus s (t.setQuad r v) ↔ SameStatus s t := by
  simp [SameStatus]

theorem sameStatus_advance (s t : State) (n : Nat) : SameStatus s (t.advance n) ↔ SameStatus s t := Iff.rfl

theorem sameStatus_refl (s : State) : SameStatus s s := ⟨rfl, rfl, rfl, rfl⟩

theorem sameStatus_veaAt (vea : Vea) (s : State) : SameStatus s (veaAt vea s).st := by
  have frame := locateVea_frame (s.pc + 4) vea s
  exact ⟨locateVea_sr .., frame.fpcc, frame.pcr, frame.counters⟩

theorem storeBytes_sameStatus {s t : State} (h : SameStatus s t) (a : Addr) (bs : List (Option Byte)) :
    Ends (SameStatus s) (storeBytes a bs t) := by
  intro u hu
  obtain ⟨-, -, rfl⟩ := (storeBytes_eq_next a bs t u).mp hu
  exact h

theorem classL_sameStatus (f : QWord → QWord → QWord) (vea : Vea) (b d : Reg5) (s : State) :
    Ends (SameStatus s) (classL f vea b d s) := by
  simp only [classL, ends_finish, ends_andThen, ends_next, sameStatus_advance, sameStatus_setQuad]
  exact fun _ _ => sameStatus_veaAt vea s

theorem classLPair_sameStatus (f g : QWord → QWord → QWord) (vea : Vea) (b d : Reg5) (s : State) :
    Ends (SameStatus s) (classLPair f g vea b d s) := by
  simp only [classLPair, ends_finish, ends_andThen, ends_next, sameStatus_advance, sameStatus_setQuad]
  exact fun _ _ => sameStatus_veaAt vea s

theorem classS_sameStatus (v : QWord) (vea : Vea) (s : State) : Ends (SameStatus s) (classS v vea s) := by
  have located := sameStatus_veaAt vea s
  simp only [classS, ends_finish, sameStatus_advance, writeLoc]
  cases (veaAt vea s).loc with
  | reg r => exact (ends_next _ _).mpr ((sameStatus_setQuad ..).mpr located)
  | mem a => exact storeBytes_sameStatus located a _
  | imm w => exact ends_refused _ _

theorem classSMasked_sameStatus (v : QWord) (p : Nat → Bool) (vea : Vea) (s : State) :
    Ends (SameStatus s) (classSMasked v p vea s) := by
  have located := sameStatus_veaAt vea s
  simp only [classSMasked, ends_finish, sameStatus_advance, writeMasked]
  cases (veaAt vea s).loc with
  | reg r => exact (ends_next _ _).mpr ((sameStatus_setQuad ..).mpr located)
  | mem a => exact storeBytes_sameStatus located a _
  | imm w => exact ends_refused _ _

/-- No AMMX instruction changes a flag or a special register (rule R220). -/
theorem exec_sameStatus (i : Instr) (s : State) (h : isAmmx i = true) : Ends (SameStatus s) (exec i s) := by
  have here := sameStatus_refl s
  cases i with
  | bflyb vea b d => exact classLPair_sameStatus _ _ vea b d s
  | bflyw vea b d => exact classLPair_sameStatus _ _ vea b d s
  | unpack1632 vea d =>
    rw [show exec _ s = execUnpack1632 vea d s from rfl, execUnpack1632]
    exact classLPair_sameStatus _ _ vea 0 d s
  | bsel vea b d =>
    rw [exec_bsel, execBsel]
    simp only [ends_finish, ends_andThen, ends_next, sameStatus_advance, sameStatus_setQuad]
    exact fun _ _ => sameStatus_veaAt vea s
  | loadi vea d =>
    rw [show exec _ s = execLoadi vea d s from rfl, execLoadi]
    split
    · exact ends_refused _ _
    · simp only [ends_finish, ends_andThen, ends_next, sameStatus_advance, sameStatus_setQuad]
      exact fun _ _ => sameStatus_veaAt vea s
  | storei b vea =>
    rw [show exec _ s = execStorei b vea s from rfl, execStorei]
    split
    · exact ends_refused _ _
    · exact classS_sameStatus _ vea s
  | minterm grp d => exact (ends_next _ _).mpr ((sameStatus_setQuad ..).mpr here)
  | vperm a b d sel => exact (ends_next _ _).mpr ((sameStatus_setQuad ..).mpr here)
  | transhi grp d | translo grp d =>
    exact (ends_next _ _).mpr ((sameStatus_setQuad ..).mpr ((sameStatus_setQuad ..).mpr here))
  | pack3216 b d vea => exact classS_sameStatus _ vea s
  | packuswb b d vea => exact classS_sameStatus _ vea s
  | store b vea => exact classS_sameStatus _ vea s
  | storec b d vea => exact classSMasked_sameStatus _ _ vea s
  | storeilm b d vea => exact classSMasked_sameStatus _ _ vea s
  | storem b d vea => exact classSMasked_sameStatus _ _ vea s
  | storem3 b mode xx vea => exact classSMasked_sameStatus _ _ vea s
  | tex _ _ _ _ _ _ _ _ => exact ends_refused _ _
  | texB _ _ _ _ _ => exact ends_refused _ _
  | c2p vea d => rw [exec_c2p]; exact classL_sameStatus _ vea 0 d s
  | load vea d => rw [exec_load]; exact classL_sameStatus _ vea 0 d s
  | lslq vea b d => rw [exec_lslq]; exact classL_sameStatus _ vea b d s
  | lsrq vea b d => rw [exec_lsrq]; exact classL_sameStatus _ vea b d s
  | paddb vea b d | paddw vea b d | paddusb vea b d | paddusw vea b d | pand vea b d | pandn vea b d | pavgb vea b d
  | pcmpeqb vea b d | pcmphib vea b d | pcmpgeb vea b d | pcmpgtb vea b d | pcmpeqw vea b d | pcmphiw vea b d
  | pcmpgew vea b d | pcmpgtw vea b d | peor vea b d | pmaxsb vea b d | pmaxub vea b d | pmaxsw vea b d | pmaxuw vea b d
  | pminsb vea b d | pminub vea b d | pminsw vea b d | pminuw vea b d | pmul88 vea b d | pmulh vea b d | pmull vea b d
  | pmula vea b d | por vea b d | psubb vea b d | psubw vea b d | psubusb vea b d | psubusw vea b d =>
    exact classL_sameStatus _ vea b d s
  | _ => cases h

/-- Settles O13. -/
theorem ammxChangesNoFlagAndNoSpecialRegister : Obligations.AmmxChangesNoFlagAndNoSpecialRegister := by
  unfold Obligations.AmmxChangesNoFlagAndNoSpecialRegister
  intro i s t ammx h
  exact exec_sameStatus i s ammx t h

/-! ### Stores into the text and accesses outside the data addresses -/

/-- What a store answers when it would touch a byte of the program text (rule R80). -/
def RefusesText (s : State) (as : List Addr) (o : Res State) : Prop :=
  (∃ a ∈ as, s.inText a = true) → ∃ a ∈ as, s.inText a = true ∧ o = .refused (.storeIntoText a)

/-- What a store answers when it touches no program text and would leave the data addresses (rule R72). -/
def StopsOutside (s : State) (as : List Addr) (o : Res State) : Prop :=
  (∀ a ∈ as, s.inText a = false) → (∃ a ∈ as, s.inData a = false) →
    ∃ a ∈ as, s.inData a = false ∧ o = .fault (.outsideData a)

/-- The access check stops at an address outside the data, whatever was to follow (rule R72). -/
theorem accessCheck_outside {β : Type} (as : List Addr) (s : State) (f : State → Res β)
    (h : ∃ a ∈ as, s.inData a = false) :
    ∃ a ∈ as, s.inData a = false ∧ andThen (accessCheck as s) f = .fault (.outsideData a) := by
  unfold accessCheck
  cases found : as.find? fun a => !s.inData a with
  | none =>
    obtain ⟨a, mem, outside⟩ := h
    have := List.find?_eq_none.mp found a mem
    simp [outside] at this
  | some a => exact ⟨a, List.mem_of_find?_eq_some found, by simpa using List.find?_some found, rfl⟩

theorem storeBytes_refusesText (s : State) (ea : Addr) (bs : List (Option Byte)) :
    RefusesText s (written ea bs) (storeBytes ea bs s) := by
  rintro ⟨a, mem, text⟩
  unfold storeBytes
  cases found : (written ea bs).find? s.inText with
  | none => exact absurd text (List.find?_eq_none.mp found a mem)
  | some x => exact ⟨x, List.mem_of_find?_eq_some found, List.find?_some found, rfl⟩

theorem storeBytes_stopsOutside (s : State) (ea : Addr) (bs : List (Option Byte)) :
    StopsOutside s (written ea bs) (storeBytes ea bs s) := by
  intro noText outside
  have none : (written ea bs).find? s.inText = none := List.find?_eq_none.mpr fun a ha => by simp [noText a ha]
  rw [storeBytes, none]
  exact accessCheck_outside _ s _ outside

theorem writeMem_stops (s : State) (sz : Size) (ea : Addr) (v : QWord) :
    RefusesText s (span ea sz.bytes) (writeMem sz ea v s) ∧ StopsOutside s (span ea sz.bytes) (writeMem sz ea v s) := by
  have whole : written ea ((bytesOf sz v).map some) = span ea sz.bytes := by rw [written_map_some, bytesOf_length]
  have text := storeBytes_refusesText s ea ((bytesOf sz v).map some)
  have outside := storeBytes_stopsOutside s ea ((bytesOf sz v).map some)
  rw [whole] at text outside
  exact ⟨text, outside⟩

/-- STORE to memory stops as the store of its quad does. -/
theorem exec_store_stops (s : State) (b : Reg5) (vea : Vea) (ea : Addr) (h : (veaAt vea s).loc = .mem ea) :
    RefusesText s (span ea 8) (exec (.store b vea) s) ∧ StopsOutside s (span ea 8) (exec (.store b vea) s) := by
  have meaning : exec (.store b vea) s = finish (ammxBytes vea) (writeMem .q ea (s.quad (.d b)) (veaAt vea s).st) := by
    rw [show exec _ s = classS (s.quad (.d b)) vea s from rfl, classS, writeLoc, h]
  obtain ⟨text, outside⟩ := writeMem_stops (veaAt vea s).st .q ea (s.quad (.d b))
  have frame := locateVea_frame (s.pc + 4) vea s
  have sameText (a : Addr) : (veaAt vea s).st.inText a = s.inText a := inText_congr frame.text a
  have sameData (a : Addr) : (veaAt vea s).st.inData a = s.inData a := inData_congr frame.regions a
  simp only [RefusesText, StopsOutside, sameText, sameData, Size.bytes] at text outside
  constructor
  · intro h
    obtain ⟨a, mem, ha, e⟩ := text h
    exact ⟨a, mem, ha, by rw [meaning, e]; rfl⟩
  · intro noText h
    obtain ⟨a, mem, ha, e⟩ := outside noText h
    exact ⟨a, mem, ha, by rw [meaning, e]; rfl⟩

/-- LOAD from memory stops as the read of its quad does. -/
theorem exec_load_stops (s : State) (d : Reg5) (vea : Vea) (ea : Addr) (h : (veaAt vea s).loc = .mem ea)
    (outside : ∃ a ∈ span ea 8, s.inData a = false) :
    ∃ a ∈ span ea 8, s.inData a = false ∧ exec (.load vea d) s = .fault (.outsideData a) := by
  have frame := locateVea_frame (s.pc + 4) vea s
  have sameData (a : Addr) : (veaAt vea s).st.inData a = s.inData a := inData_congr frame.regions a
  simp only [← sameData] at outside ⊢
  obtain ⟨a, mem, ha, e⟩ := accessCheck_outside (span ea 8) _ (fun u => .next (u.sizedAt .q ea)) outside
  have read : readLoc .q (veaAt vea s) = .fault (.outsideData a) := by rw [readLoc, h]; exact e
  exact ⟨a, mem, ha, by rw [exec_load, classL, read]; rfl⟩

/-- Settles O15. -/
theorem storesIntoTextAndOutsideDataStop : Obligations.StoresIntoTextAndOutsideDataStop := by
  unfold Obligations.StoresIntoTextAndOutsideDataStop
  refine ⟨writeMem_stops, fun s ea bs => ⟨storeBytes_refusesText s ea bs, storeBytes_stopsOutside s ea bs⟩,
    fun s sz ea => accessCheck_outside _ s _, fun s n ea => accessCheck_outside _ s _, exec_store_stops, exec_load_stops,
    fun s t wf h a ha => ?_⟩
  obtain ⟨kept, -⟩ := step_keptEven h
  exact kept.byte wf a ha

end Sys2Proof.Machine
end

section
/-!
PROOF. The step from fetch to trace (rules R17, R34, R61, R65, R353, R360, R362, R364, R384), a quad stored and read
back (rules R60, R62), the two effective addresses mode by mode (rules R92 to R104), the write of a long (rule R24),
TOUCH (rule R212) and the floating-point unit switched off (rules R193, R333).
-/

namespace Sys2Proof.Machine

open Sys2Proof.Decode

/-! ### Bits of SR as a word -/

theorem word_bit15 (f : StatusReg) : f.word.getLsbD 15 = f.trace := by
  simp only [StatusReg.word, StatusReg.trace, BitVec.getLsbD_append]
  simp

theorem word_bit13 (f : StatusReg) : f.word.getLsbD 13 = f.supervisor := by
  simp only [StatusReg.word, StatusReg.supervisor, BitVec.getLsbD_append]
  simp

theorem word_bit11 (f : StatusReg) : f.word.getLsbD 11 = f.apollo := by
  simp only [StatusReg.word, StatusReg.apollo, BitVec.getLsbD_append]
  simp

/-! ### Selecting the instruction -/

theorem isLineA_iff (w : Word) : isLineA w = true ↔ bits w 12 4 = 0xA#4 := beq_iff_eq

/-- Words of an even `pc` that decode to an instruction, and are no Line-A word met with the apollo-bit clear, leave
the instruction or the complaint about its form (rule R364). -/
theorem nextInstr_of_decoded {s : State} {w : Word} {ws rest : List Word} {i : Instr} (even : s.pc.getLsbD 0 = false)
    (fetched : s.fetch = w :: ws) (allowed : bits w 12 4 = 0xA#4 → s.sr.apollo = true)
    (decoded : decode s.cfg (w :: ws) = .ok i rest) :
    nextInstr s = match i.complaint s.cfg with
      | some r => .refused (.form r)
      | none => .next i := by
  have pass : (isLineA w && !s.sr.apollo) = false := by
    cases line : isLineA w with
    | false => rfl
    | true => simp [allowed ((isLineA_iff w).mp line)]
  simp only [nextInstr, even, fetched, pass, decoded, Bool.false_eq_true, if_false]
  rfl

/-- Settles O5. -/
theorem stepRunsTheDecodedInstruction : Obligations.StepRunsTheDecodedInstruction := by
  unfold Obligations.StepRunsTheDecodedInstruction
  intro s i w ws rest even fetched allowed decoded wellFormed
  rw [word_bit11] at allowed
  have selected := nextInstr_of_decoded even fetched allowed decoded
  rw [(wellFormed_iff _ _).mp wellFormed] at selected
  rw [step, selected, andThen_next, word_bit15]
  cases exec i s <;> rfl

/-- Settles O7: the apollo-bit is asked before the words are decoded, and an unassigned word raises too. -/
theorem lineAWordsRaiseLineA : Obligations.LineAWordsRaiseLineA := by
  unfold Obligations.LineAWordsRaiseLineA
  intro s w ws even fetched line reason
  have selected : nextInstr s = raise .lineA s.pc s := by
    rw [word_bit11] at reason
    cases apollo : s.sr.apollo with
    | false =>
      simp only [nextInstr, even, fetched, (isLineA_iff w).mpr line, apollo]
      rfl
    | true =>
      have unassigned : UnassignedLineA w := by simpa [apollo, UnassignedLineA] using reason
      simp only [nextInstr, even, fetched, apollo, decode_unassignedLineA _ w ws line unassigned, Bool.not_true,
        Bool.and_false]
      rfl
  rw [step, selected]
  rfl

/-- Settles O9. -/
theorem oddPcFaultsAndRunsEndOutsideTheText : Obligations.OddPcFaultsAndRunsEndOutsideTheText := by
  unfold Obligations.OddPcFaultsAndRunsEndOutsideTheText
  intro s
  refine ⟨fun odd => ?odd, fun even outside => ?outside⟩
  case odd =>
    simp only [step, nextInstr, odd]
    rfl
  case outside =>
    have nothing : s.fetch = [] := by simp [State.fetch, maxWords, fetchWords, outside]
    simp only [step, nextInstr, even, nothing]
    rfl

/-! ### The words fetched -/

theorem add_ofNat_add (a : Addr) (i j : Nat) : a + BitVec.ofNat 32 i + BitVec.ofNat 32 j = a + BitVec.ofNat 32 (i + j) := by
  rw [BitVec.add_assoc, ← BitVec.ofNat_add]

/-- The `n`-th of at most `m` words fetched from `a` on: the big-endian word there when every byte up to its end is
program text, and none otherwise (rules R61, R80). -/
theorem fetchWords_getElem? (s : State) (m n : Nat) (a : Addr) :
    (n < m → (∀ k, k < 2 * n + 2 → s.inText (a + BitVec.ofNat 32 k) = true) →
      (fetchWords s a m)[n]? = some (s.wordAt (a + BitVec.ofNat 32 (2 * n)))) ∧
    (m ≤ n ∨ (∃ k, k < 2 * n + 2 ∧ s.inText (a + BitVec.ofNat 32 k) = false) → (fetchWords s a m)[n]? = none) := by
  induction m generalizing n a with
  | zero => exact ⟨fun h => absurd h (by omega), fun _ => rfl⟩
  | succ m ih =>
    have next (k : Nat) : a + 2 + BitVec.ofNat 32 k = a + BitVec.ofNat 32 (k + 2) := by
      rw [show a + 2 = a + BitVec.ofNat 32 2 from rfl, add_ofNat_add, Nat.add_comm]
    have first : a + BitVec.ofNat 32 0 = a := BitVec.add_zero a
    by_cases text : s.inText a = true ∧ s.inText (a + 1) = true
    · have fetched : fetchWords s a (m + 1) = s.wordAt a :: fetchWords s (a + 2) m := by
        simp only [fetchWords, Bool.and_eq_true, text, and_self, if_true]
      rw [fetched]
      cases n with
      | zero =>
        refine ⟨fun _ _ => by simp, fun bad => ?_⟩
        obtain bad | ⟨k, hk, outside⟩ := bad
        · omega
        · interval_cases k
          · rw [first, text.1] at outside; cases outside
          · rw [show a + BitVec.ofNat 32 1 = a + 1 from rfl, text.2] at outside; cases outside
      | succ n =>
        obtain ⟨inside, outside⟩ := ih n (a + 2)
        simp only [List.getElem?_cons_succ]
        simp only [next] at inside outside
        refine ⟨fun hn all => inside (by omega) fun k hk => all (k + 2) (by omega), fun bad => outside ?_⟩
        obtain bad | ⟨k, hk, notText⟩ := bad
        · exact .inl (by omega)
        · refine .inr ⟨k - 2, by omega, ?_⟩
          match k with
          | 0 => rw [first, text.1] at notText; cases notText
          | 1 => rw [show a + BitVec.ofNat 32 1 = a + 1 from rfl, text.2] at notText; cases notText
          | k + 2 => exact notText
    · have fetched : fetchWords s a (m + 1) = [] := by
        simp only [fetchWords, Bool.and_eq_true, text, if_false]
      rw [fetched]
      refine ⟨fun _ all => absurd ⟨?_, all 1 (by omega)⟩ text, fun _ => by simp⟩
      have := all 0 (by omega)
      rwa [first] at this

/-- Settles O6. -/
theorem fetchReadsTheProgramText : Obligations.FetchReadsTheProgramText := by
  unfold Obligations.FetchReadsTheProgramText
  intro s n
  obtain ⟨inside, outside⟩ := fetchWords_getElem? s maxWords n s.pc
  refine ⟨fun hn text => (inside hn text).trans ?_, outside⟩
  rw [State.wordAt, show (1 : Addr) = BitVec.ofNat 32 1 from rfl, add_ofNat_add]

/-! ### Conditions, and what traces -/

/-- The sixteen conditions by their codes (rule R34). -/
theorem conditionTable_getElem? (f : StatusReg) (cc : BitVec 4) : (conditionTable f)[cc.toNat]? = some (f.cond cc) := by
  obtain ⟨⟨k, hk⟩⟩ := cc
  interval_cases k <;> rfl

/-- Each Bcc of the table branches by the condition of one code, and does not trace when that is false (rules R34, R142,
R362). -/
theorem bcc_of_bccTable {e : (Byte → Instr) × (StatusReg → Bool)} (h : e ∈ bccTable) :
    ∃ cc, (∀ d8 s, exec (e.1 d8) s = branchIf cc d8 s) ∧ (∀ f, e.2 f = f.cond cc) ∧
      ∀ d8 s, untraced (e.1 d8) s = !s.sr.cond cc := by
  simp only [bccTable, List.mem_cons, List.not_mem_nil, or_false] at h
  rcases h with rfl | rfl | rfl | rfl | rfl | rfl | rfl | rfl | rfl | rfl | rfl | rfl | rfl | rfl
  all_goals exact ⟨_, fun _ _ => rfl, fun _ => rfl, fun _ _ => rfl⟩

/-- An instruction with a Bcc's condition is one of the table. -/
theorem mem_bccTable_of_bccCond (i : Instr) (h : bccCond i ≠ none) : ∃ e ∈ bccTable, ∃ d8, i = e.1 d8 := by
  have found {m : Byte → Instr} (k : Nat) (d8 : Byte) (hk : (bccTable[k]?).map Prod.fst = some m) :
      ∃ e ∈ bccTable, ∃ d8', m d8 = e.1 d8' := by
    obtain ⟨e, he, rfl⟩ := Option.map_eq_some_iff.mp hk
    exact ⟨e, List.mem_of_getElem? he, d8, rfl⟩
  cases i with
  | bhi d8 => exact found 0 d8 rfl
  | bls d8 => exact found 1 d8 rfl
  | bcc d8 => exact found 2 d8 rfl
  | bcs d8 => exact found 3 d8 rfl
  | bne d8 => exact found 4 d8 rfl
  | beq d8 => exact found 5 d8 rfl
  | bvc d8 => exact found 6 d8 rfl
  | bvs d8 => exact found 7 d8 rfl
  | bpl d8 => exact found 8 d8 rfl
  | bmi d8 => exact found 9 d8 rfl
  | bge d8 => exact found 10 d8 rfl
  | blt d8 => exact found 11 d8 rfl
  | bgt d8 => exact found 12 d8 rfl
  | ble d8 => exact found 13 d8 rfl
  | _ => exact absurd rfl h

/-- Settles O8. -/
theorem untracedInstructionsAreTheSpecialCases : Obligations.UntracedInstructionsAreTheSpecialCases := by
  unfold Obligations.UntracedInstructionsAreTheSpecialCases
  refine ⟨fun _ _ => rfl, fun _ _ _ _ => rfl, fun cc dn w s => ?dbcc, fun e he d8 s => ?bcc,
    fun i s notOri notFdbcc notDbcc notBcc => ?other⟩
  case dbcc =>
    rw [conditionTable_getElem?]
    cases h : s.sr.cond cc <;> simp [untraced, h, banked]
  case bcc =>
    obtain ⟨cc, -, cond, traces⟩ := bcc_of_bccTable he
    rw [traces, cond]
  case other =>
    have noCond : bccCond i = none := by
      by_contra h
      obtain ⟨e, he, d8, rfl⟩ := mem_bccTable_of_bccCond i h
      exact notBcc e he d8 rfl
    unfold untraced
    split
    · exact absurd rfl (notOri _)
    · exact absurd rfl (notDbcc _ _ _)
    · exact absurd rfl (notFdbcc _ _ _)
    · rw [noCond]

/-! ### A quad stored and read back -/

theorem mem_span {a x : Addr} {n : Nat} : x ∈ span a n ↔ ∃ k, k < n ∧ a + BitVec.ofNat 32 k = x := by simp [span]

/-- The addresses of a part of a span. -/
theorem span_subset (a : Addr) (k m n : Nat) (h : k + m ≤ n) : ∀ x ∈ span (a + BitVec.ofNat 32 k) m, x ∈ span a n := by
  intro x hx
  obtain ⟨i, hi, rfl⟩ := mem_span.mp hx
  exact mem_span.mpr ⟨k + i, by omega, (add_ofNat_add a k i).symm⟩

theorem bytesOf_q_getElem (v : QWord) (j : Nat) (h : j < 8) :
    (bytesOf .q v)[j]'(by simpa [Size.bytes] using h) = v.extractLsb' (56 - 8 * j) 8 := by
  interval_cases j <;> rfl

/-- Settles O14: every read is put together from the eight bytes. -/
theorem storedQuadReadsBackBigEndian : Obligations.StoredQuadReadsBackBigEndian := by
  unfold Obligations.StoredQuadReadsBackBigEndian
  intro s p v wf writable
  have stored := (writeMem_eq_next .q p v s _).mpr
    ⟨fun x hx => (writable x hx).2, fun x hx => (writable x hx).1, rfl⟩
  have frame := frame_store s p ((bytesOf .q v).map some) wf
  rw [written_map_some, bytesOf_length] at frame
  have byte (j : Nat) (hj : j < 8) := (byteAt_store s p (bytesOf .q v) wf j (by simpa [Size.bytes] using hj)
    (by simp [Size.bytes])).trans (bytesOf_q_getElem v j hj)
  have quad := sizedAt_store .q s p v wf
  generalize ht : s.setMem (s.mem.store p ((bytesOf .q v).map some)) = t at *
  have word (j : Nat) (hj : j < 4) : t.wordAt (p + BitVec.ofNat 32 (2 * j)) = v.extractLsb' (48 - 16 * j) 16 := by
    refine wordAt_of_bytes t _ v _ ?_ ?_
    · rw [byte (2 * j) (by omega), show 56 - 8 * (2 * j) = 48 - 16 * j + 8 by omega]
    · rw [show (1 : Addr) = BitVec.ofNat 32 1 from rfl, add_ofNat_add, byte (2 * j + 1) (by omega),
        show 56 - 8 * (2 * j + 1) = 48 - 16 * j by omega]
  have long (j : Nat) (hj : j < 3) : t.longAt (p + BitVec.ofNat 32 (2 * j)) = v.extractLsb' (32 - 16 * j) 32 := by
    refine longAt_of_words t _ v _ ?_ ?_
    · rw [word j (by omega), show 48 - 16 * j = 32 - 16 * j + 16 by omega]
    · rw [show (2 : Addr) = BitVec.ofNat 32 2 from rfl, add_ofNat_add, show 2 * j + 2 = 2 * (j + 1) by omega,
        word (j + 1) (by omega), show 48 - 16 * (j + 1) = 32 - 16 * j by omega]
  have read (sz : Size) (k : Nat) (hk : k + sz.bytes ≤ 8) {u : QWord} (h : t.sizedAt sz (p + BitVec.ofNat 32 k) = u) :
      readMem sz (p + BitVec.ofNat 32 k) t = .next u := by
    refine (readMem_eq_next sz _ t u).mpr ⟨fun x hx => ?_, h.symm⟩
    rw [inData_congr frame.regions]
    exact (writable x (span_subset p k _ 8 hk x hx)).1
  have start : p + BitVec.ofNat 32 0 = p := BitVec.add_zero p
  refine ⟨t, stored, ?_, ?_, ?_, fun j hj => ?_, byte, frame, ?_, ?_⟩
  · have := read .q 0 (by decide) (u := v) (by rw [start]; exact quad)
    rwa [start] at this
  · have := read .l 0 (by decide) (congrArg (BitVec.setWidth 64) (long 0 (by omega)))
    rwa [start] at this
  · exact read .l 4 (by decide) (congrArg (BitVec.setWidth 64) (long 2 (by omega)))
  · exact read .w (2 * j) (by simp [Size.bytes]; omega) (congrArg (BitVec.setWidth 64) (word j hj))
  · rw [← ht]; rfl
  · rw [← ht]; rfl

/-! ### The effective addresses -/

theorem banked_zero (n : Reg3) : banked 0 n = n.setWidth 5 := by
  revert n; decide

/-- The offset of a brief extension word, its scale as a factor (rule R94). -/
theorem indexOffset_eq (e : Brief) (s : State) :
    indexOffset e s =
      (if e.wl then s.long (if e.da then .a e.xn else .d (0#2 ++ e.xn))
       else ((s.long (if e.da then .a e.xn else .d (0#2 ++ e.xn))).extractLsb' 0 16).signExtend 32) *
        2 ^ e.scale.toNat + e.d8.signExtend 32 := by
  have register : Brief.reg e = if e.da then .a e.xn else .d (0#2 ++ e.xn) := by
    rw [Brief.reg, ← banked_zero]; rfl
  have scaled (x : Long) : x <<< e.scale.toNat = x * 2 ^ e.scale.toNat := by
    rw [BitVec.shiftLeft_eq_mul_twoPow, BitVec.twoPow_eq]
    have powers : ∀ k : BitVec 2, (1#32 <<< k.toNat : Long) = 2 ^ k.toNat := by decide
    rw [powers]
  rw [indexOffset, register, scaled]

/-- Settles O16. -/
theorem effectiveAddressesFollowTheModeTable : Obligations.EffectiveAddressesFollowTheModeTable := by
  unfold Obligations.EffectiveAddressesFollowTheModeTable
  intro sz ext xx s
  have stepped (n : Reg3) : BitVec.ofNat 32 (eaStep sz n) = if sz = .b ∧ n = 7 then 2 else BitVec.ofNat 32 sz.bytes := by
    rw [eaStep, apply_ite (BitVec.ofNat 32)]; rfl
  refine ⟨fun _ => rfl, fun _ => rfl, fun _ => rfl, fun n => ⟨rfl, ?_, frame_setLong ..⟩,
    fun n => ⟨?_, ?_, frame_setLong ..⟩, fun _ _ => rfl, fun n e => ?_, fun _ => rfl, fun _ => rfl, fun _ => rfl,
    fun e => ?_, fun _ => rfl⟩
  · exact (State.long_setLong_self s (.a n) _).trans (congrArg (s.long (.a n) + ·) (stepped n))
  · exact congrArg (fun x => Loc.mem (s.long (.a n) - x)) (stepped n)
  · exact (State.long_setLong_self s (.a n) _).trans (congrArg (s.long (.a n) - ·) (stepped n))
  · rw [locate, indexOffset_eq]
  · rw [locate, indexOffset_eq]

/-- Settles O17. -/
theorem vectorEffectiveAddressesFollowTheTable : Obligations.VectorEffectiveAddressesFollowTheTable := by
  unfold Obligations.VectorEffectiveAddressesFollowTheTable
  intro s r
  exact ⟨fun _ => rfl, rfl, ⟨rfl, State.long_setLong_self .., frame_setLong ..⟩,
    ⟨rfl, State.long_setLong_self .., frame_setLong ..⟩, fun _ => rfl, fun _ => rfl, fun _ => rfl, fun _ => rfl,
    fun _ => rfl, fun _ => rfl, fun _ => rfl, fun _ => rfl⟩

/-! ### The write of a long, TOUCH, and the unit switched off -/

/-- Bits 63-32 of a register. -/
theorem quad_high (s : State) (r : RegName) : (s.quad r).extractLsb' 32 32 = (s.reg r).hi := by
  apply BitVec.eq_of_getLsbD_eq
  intro i hi
  simp only [State.quad, Reg64.quad, BitVec.getLsbD_extractLsb', BitVec.getLsbD_append]
  simp [hi]

/-- Settles O18. -/
theorem longWritesTreatTheUpperHalfAsConfigured : Obligations.LongWritesTreatTheUpperHalfAsConfigured := by
  unfold Obligations.LongWritesTreatTheUpperHalfAsConfigured
  intro s r v
  obtain ⟨preserved, zeroed⟩ := setLong_upperAsConfigured s r v
  simp only [quad_high]
  exact ⟨State.long_setLong_self .., preserved, zeroed, frame_setLong .., by simp, by simp⟩

/-- Settles O41: both forms only step `pc` past their words. -/
theorem touchOnlyMovesPc : Obligations.TouchOnlyMovesPc := by
  unfold Obligations.TouchOnlyMovesPc
  exact fun an e s => ⟨rfl, rfl⟩

/-- An admitted bundle runs the inner instruction as its BANK word says (rule R139). -/
theorem exec_bank_admitted {p : BankPrefix} {inner : Instr} {s : State}
    (h : (Instr.bank p inner).wellFormed s.cfg = true) : exec (.bank p inner) s = execInner (.ofBank p) inner s := by
  rw [show exec _ s = execBank p inner s from rfl, execBank, formRefusal, (wellFormed_iff _ _).mp h]

/-- The BANK fields of an admitted bundle suit its instruction, which is itself admitted (rule R140). -/
theorem bankFields_of_wellFormed {cfg : Config} {p : BankPrefix} {inner : Instr}
    (h : (Instr.bank p inner).wellFormed cfg = true) :
    bankFieldComplaint p inner = none ∧ inner.complaint cfg = none := by
  rw [wellFormed_iff, Instr.complaint, firstComplaint_eq_none, firstComplaint_eq_none] at h
  exact h.2

theorem fpuOn_disabled {s : State} (h : s.pcr.dfp = true) (r : Res State) : fpuOn s r = .refused .fpuDisabled := by
  rw [fpuOn, if_pos h]

/-- Settles O55: every floating-point meaning begins with `fpuOn`; FDBcc.L, FLOADI and FSTOREI stand in no bundle. -/
theorem disabledFloatAndTexAreRefused : Obligations.DisabledFloatAndTexAreRefused := by
  unfold Obligations.DisabledFloatAndTexAreRefused
  refine ⟨fun i s float off => ?alone, fun p i s float admitted off => ?bundle, fun _ _ _ _ _ _ _ _ _ => rfl,
    fun _ _ _ _ _ _ => rfl⟩
  case alone =>
    cases i with
    | fdbccL | fmoveEaFp | fmoveFpEa | fmoverz | fmoveurz | floadi | fstorei => exact fpuOn_disabled off _
    | _ => cases float
  case bundle =>
    obtain ⟨fields, -⟩ := bankFields_of_wellFormed admitted
    rw [exec_bank_admitted admitted]
    cases i with
    | fmoveEaFp | fmoveFpEa | fmoverz | fmoveurz => exact fpuOn_disabled off _
    | fdbccL | floadi | fstorei => cases fields
    | _ => cases float

end Sys2Proof.Machine
end

section
/-!
PROOF. The integer instructions with one operand to read or to write (rules R131 to R156, R170 to R182, R198 to R203,
R208, R210): what a write to a location leaves, what a write of a register's long leaves, and from these each statement.
-/

namespace Sys2Proof.Machine

open Sys2Proof.Encode

/-! ### Operands whose address has been formed -/

/-- A location as forming its address from `s` leaves it: at most the registers `stepped` have changed, of which none is
the location itself (rules R92, R98, R223). -/
structure Formed (s : State) (stepped : List RegName) (l : Located) : Prop where
  frame : Frame stepped [] s l.st
  sr : l.st.sr = s.sr
  pc : l.st.pc = s.pc
  mem : l.st.mem = s.mem
  apart : ∀ r ∈ l.loc.regs, r ∉ stepped
  hi : s.cfg.upper32 = .preserve → ∀ r, (l.st.reg r).hi = (s.reg r).hi

/-- Under `UPPER32 = preserve` a write of a long leaves bits 63-32 of every register (rule R24). -/
theorem reg_setLong_hi {s : State} (h : s.cfg.upper32 = .preserve) (x r : RegName) (v : Long) :
    ((s.setLong x v).reg r).hi = (s.reg r).hi := by
  by_cases same : r = x
  · subst same
    exact (setLong_upperAsConfigured s r v).1 h
  · rw [State.reg_setLong_ne s x r v same]

theorem formed_locate (sz : Size) (ext : Addr) (xx : BitVec 2) (ea : Ea) (s : State) :
    Formed s (steppedEa ea) (locate sz ext xx ea s) where
  frame := locate_frame ..
  sr := locate_sr ..
  pc := locate_pc ..
  mem := locate_mem ..
  apart r hr := by cases ea <;> first | exact List.not_mem_nil | cases hr
  hi h r := by
    cases ea with
    | postinc n => exact reg_setLong_hi h ..
    | predec n => exact reg_setLong_hi h ..
    | _ => rfl

theorem formed_veaAt (vea : Vea) (s : State) : Formed s (steppedVea vea) (veaAt vea s) where
  frame := locateVea_frame ..
  sr := locateVea_sr ..
  pc := locateVea_pc ..
  mem := locateVea_mem ..
  apart r hr := by cases vea <;> first | exact List.not_mem_nil | cases hr
  hi h r := by
    cases vea with
    | postinc n => exact reg_setLong_hi h ..
    | predec n => exact reg_setLong_hi h ..
    | _ => rfl

section

variable {s : State} {stepped : List RegName} {l : Located} (formed : Formed s stepped l)

include formed

/-- Forming the address changes nothing of what the location holds. -/
theorem Formed.value (sz : Size) : l.loc.value sz l.st = l.loc.value sz s :=
  value_congr sz l.loc s l.st formed.mem fun r hr => formed.frame.reg r (formed.apart r hr)

theorem Formed.readLoc {sz : Size} (readable : Readable (l.loc.addrs sz) s) : readLoc sz l = .next (l.loc.value sz s) := by
  rw [readLoc_eq_next, formed.value]
  exact ⟨fun a ha => by rw [inData_congr formed.frame.regions]; exact readable a ha, rfl⟩

end

theorem readable_of_writable {as : List Addr} {s : State} (h : Writable as s) : Readable as s := fun a ha => (h a ha).1

/-! ### A write of the low bytes of a register -/

/-- Replacing the low byte or word of a long leaves the bits above. -/
theorem mergeLow_shift (sz : Size) (h : sz ≠ .q) (old : Long) (v : QWord) :
    mergeLow sz old v >>> (8 * sz.bytes) = old >>> (8 * sz.bytes) := by
  apply BitVec.eq_of_getLsbD_eq
  intro i hi
  cases sz with
  | b =>
    simp only [mergeLow, Size.bytes, BitVec.getLsbD_ushiftRight, BitVec.getLsbD_append, BitVec.getLsbD_extractLsb']
    by_cases c : i < 24
    · simp [c]
    · simp [c, show 32 ≤ 8 + i by omega]
  | w =>
    simp only [mergeLow, Size.bytes, BitVec.getLsbD_ushiftRight, BitVec.getLsbD_append, BitVec.getLsbD_extractLsb']
    by_cases c : i < 16
    · simp [c]
    · simp [c, show 32 ≤ 16 + i by omega]
  | l => simp [Size.bytes]
  | q => exact absurd rfl h

/-- A write of a part of a register is a write of its long, but for a quad. -/
theorem setPart_eq_setLong (s : State) (sz : Size) (h : sz ≠ .q) (r : RegName) (v : QWord) :
    s.setPart sz r v = s.setLong r (mergeLow sz (s.long r) v) := by
  cases sz <;> first | rfl | exact absurd rfl h

/-- A write of the low bytes of a register leaves of it what rule R24 says. -/
theorem setPart_keepsAbove (sz : Size) (s : State) (r : RegName) (v : QWord) : KeepsAbove sz s (s.setPart sz r v) r := by
  intro h
  rw [setPart_eq_setLong s sz h, State.long_setLong_self]
  exact ⟨mergeLow_shift sz h _ v, setLong_upperAsConfigured ..⟩

/-- `KeepsAbove` depends on the register before and the parameter only. -/
theorem KeepsAbove.of_same {sz : Size} {s u t : State} {r : RegName} (h : KeepsAbove sz u t r) (reg : u.reg r = s.reg r)
    (cfg : u.cfg = s.cfg) : KeepsAbove sz s t r := by
  unfold KeepsAbove UpperAsConfigured State.long at *
  rwa [reg, cfg] at h

/-! ### A write to a location -/

/-- `t` is what a write of `v` to the location `l` of size `sz` leaves of `s`, but for SR and `pc`. -/
structure WrittenTo (sz : Size) (l : Located) (stepped : List RegName) (v : QWord) (s t : State) : Prop where
  value : l.loc.value sz t = v
  frame : Frame (stepped ++ l.loc.regs) (l.loc.addrs sz) s t
  stepped : ∀ r ∈ stepped, t.long r = l.st.long r
  above : ∀ r ∈ l.loc.regs, KeepsAbove sz s t r

/-- A write to a formed location that is no immediate and whose addresses may be written completes (rule R98). -/
theorem Formed.writeLoc {s : State} {stepped : List RegName} {l : Located} (formed : Formed s stepped l) (sz : Size)
    (v : QWord) (wf : s.mem.wf = true) (notImm : ∀ w, l.loc ≠ .imm w) (writable : Writable (l.loc.addrs sz) s) :
    ∃ t, writeLoc sz l v = .next t ∧ WrittenTo sz l stepped (lowBytes sz v) s t ∧ t.sr = s.sr ∧ t.pc = s.pc := by
  have writable' : Writable (l.loc.addrs sz) l.st := fun a ha => by
    rw [inData_congr formed.frame.regions, inText_congr formed.frame.text]
    exact writable a ha
  obtain ⟨t, done, value, sr, pc, frame⟩ := writeLoc_ok sz l v (by rw [formed.mem]; exact wf) notImm writable'
  refine ⟨t, done, ⟨value, formed.frame.trans frame, fun r hr => ?stepped, fun r hr => ?above⟩, sr.trans formed.sr,
    pc.trans formed.pc⟩
  case stepped => exact congrArg Reg64.lo (frame.reg r fun h => formed.apart r h hr)
  case above =>
    obtain ⟨-, -, ⟨x, loc, rfl⟩ | ⟨a, loc, -⟩⟩ := writeLoc_eq_next sz l v t done
    · rw [loc, Loc.regs, List.mem_singleton] at hr
      subst hr
      refine (setPart_keepsAbove sz l.st r v).of_same (formed.frame.reg r (formed.apart r ?_)) formed.frame.cfg
      rw [loc]
      exact List.mem_singleton_self r
    · rw [loc] at hr
      cases hr

/-- An instruction that writes a formed location, then SR, and steps `pc` past its `n` bytes. -/
theorem Formed.writesTo {i : Instr} {s : State} {stepped : List RegName} {l : Located} (formed : Formed s stepped l)
    {sz : Size} {v : QWord} {sr : StatusReg} {n : Nat} (wf : s.mem.wf = true) (notImm : ∀ w, l.loc ≠ .imm w)
    (writable : Writable (l.loc.addrs sz) s)
    (meaning : exec i s = finish n (andThen (Machine.writeLoc sz l v) fun t => .next (t.setSr sr))) :
    WritesTo i s sz l stepped (lowBytes sz v) sr n := by
  obtain ⟨t, done, w, -, pc⟩ := formed.writeLoc sz v wf notImm writable
  rw [done] at meaning
  refine ⟨_, meaning, ?_, by simp, by simp [pc], (w.frame.setSr sr).advance n, w.stepped, w.above⟩
  exact (value_congr sz l.loc t _ rfl fun _ _ => rfl).trans w.value

/-- An instruction that only writes a formed location and steps `pc` past its `n` bytes. -/
theorem Formed.stores {i : Instr} {s : State} {stepped : List RegName} {l : Located} (formed : Formed s stepped l)
    {sz : Size} {v : QWord} {n : Nat} (wf : s.mem.wf = true) (notImm : ∀ w, l.loc ≠ .imm w)
    (writable : Writable (l.loc.addrs sz) s) (meaning : exec i s = finish n (Machine.writeLoc sz l v)) :
    WritesTo i s sz l stepped (lowBytes sz v) s.sr n := by
  obtain ⟨t, done, w, sr, pc⟩ := formed.writeLoc sz v wf notImm writable
  rw [done] at meaning
  refine ⟨_, meaning, ?_, by simp [sr], by simp [pc], w.frame.advance n, w.stepped, w.above⟩
  exact (value_congr sz l.loc t _ rfl fun _ _ => rfl).trans w.value

/-! ### A write of a register's long -/

/-- A write of a register's long leaves bits 63-32 as `UPPER32` says, counted from before the address was formed. -/
theorem Formed.upperAsConfigured {s : State} {stepped : List RegName} {l : Located} (formed : Formed s stepped l)
    (r : RegName) (v : Long) : UpperAsConfigured s (l.st.setLong r v) r := by
  obtain ⟨preserved, zeroed⟩ := setLong_upperAsConfigured l.st r v
  rw [formed.frame.cfg] at preserved zeroed
  exact ⟨fun h => (preserved h).trans (formed.hi h r), zeroed⟩

/-- What a write of a register's long leaves after an address was formed. -/
theorem Formed.frame_setLong {s : State} {stepped : List RegName} {l : Located} (formed : Formed s stepped l)
    (r : RegName) (v : Long) : Frame (r :: stepped) [] s (l.st.setLong r v) :=
  (formed.frame.trans (Machine.frame_setLong l.st r v)).mono (by simp [or_comm]) (by simp)

/-- An instruction that writes a register's long after forming an address, then SR, and steps `pc` past its `n` bytes. -/
theorem Formed.writesLong {i : Instr} {s : State} {stepped : List RegName} {l : Located} (formed : Formed s stepped l)
    {r : RegName} {v : Long} {sr : StatusReg} {n : Nat}
    (meaning : exec i s = .next (((l.st.setLong r v).setSr sr).advance n)) : WritesLong i s l stepped r v sr n := by
  refine ⟨_, meaning, by simp, by simp, by simp [formed.pc], ((formed.frame_setLong r v).setSr sr).advance n,
    formed.upperAsConfigured r v, fun x _ ne => ?_⟩
  exact congrArg Reg64.lo (State.reg_setLong_ne l.st r x v ne)

theorem setSr_eq_self {s : State} {f : StatusReg} (h : s.sr = f) : s.setSr f = s := by subst h; rfl

/-- An instruction that only writes a register's long after forming an address. -/
theorem Formed.loadsLong {i : Instr} {s : State} {stepped : List RegName} {l : Located} (formed : Formed s stepped l)
    {r : RegName} {v : Long} {n : Nat} (meaning : exec i s = .next ((l.st.setLong r v).advance n)) :
    WritesLong i s l stepped r v s.sr n := by
  refine formed.writesLong (meaning.trans ?_)
  rw [setSr_eq_self (by simp [formed.sr])]

/-- The location of no operand. -/
theorem formed_none (s : State) (v : QWord) : Formed s [] ⟨.imm v, s⟩ :=
  ⟨Frame.refl .., rfl, rfl, rfl, fun _ h => (by cases h), fun _ _ => rfl⟩

/-! ### Values -/

theorem low32_eq (v : QWord) : low32 v = v.setWidth 32 := (BitVec.setWidth_eq_extractLsb' (by omega)).symm

theorem lowBytes_l_zext (v : Long) : lowBytes .l (zext v) = v.setWidth 64 := by
  simp [lowBytes, zext, ← BitVec.setWidth_eq_extractLsb']

theorem lowBytes_w_setWidth (v : Word) : lowBytes .w (v.setWidth 64) = v.setWidth 64 := by
  simp [lowBytes, ← BitVec.setWidth_eq_extractLsb']

theorem lowBytes_zero (sz : Size) : lowBytes sz 0 = 0 := by cases sz <;> decide

/-! ### Admitted operands -/

/-- An operand of the class `alter` is no immediate (rule R93). -/
theorem loc_ne_imm_of_alter {ea : Ea} (h : EaClass.allows .alter ea = true) (sz : Size) (ext : Addr) (xx : BitVec 2)
    (s : State) (w : QWord) : (locate sz ext xx ea s).loc ≠ .imm w := by
  cases ea with
  | imm v => cases h
  | _ => simp [locate]

theorem allows_of_eaComplaint {c : EaClass} {sz : Size} {ea : Ea} (h : eaComplaint c sz ea = none) :
    c.allows ea = true := ((eaComplaint_eq_none c sz ea).mp h).1

/-- An instruction that writes an alterable `<ea>`, then SR. -/
theorem writesTo_of_alter {i : Instr} {sz : Size} {ext : Addr} {xx : BitVec 2} {ea : Ea} {s : State} {v : QWord}
    {sr : StatusReg} {n : Nat} (admitted : eaComplaint .alter sz ea = none) (wf : s.mem.wf = true)
    (writable : Writable ((locate sz ext xx ea s).loc.addrs sz) s)
    (meaning : exec i s = finish n (andThen (writeLoc sz (locate sz ext xx ea s) v) fun t => .next (t.setSr sr))) :
    WritesTo i s sz (locate sz ext xx ea s) (steppedEa ea) (lowBytes sz v) sr n :=
  (formed_locate sz ext xx ea s).writesTo wf (loc_ne_imm_of_alter (allows_of_eaComplaint admitted) sz ext xx s) writable meaning

theorem lineA_on {s : State} (h : s.sr.word.getLsbD 11 = true) (r : Res State) : lineA s r = r := by
  rw [word_bit11] at h
  rw [lineA, if_pos h]

theorem lineA_off {s : State} (h : s.sr.word.getLsbD 11 = false) (r : Res State) :
    lineA s r = .fault (.raised .lineA s.pc s) := by
  rw [word_bit11] at h
  rw [lineA, if_neg (by simp [h])]
  rfl

/-! ### ADDIW, ADDQ, SUBQ and the compares -/

/-- Settles O19. -/
theorem addiwAddsTheSignExtendedWord : Obligations.AddiwAddsTheSignExtendedWord := by
  unfold Obligations.AddiwAddsTheSignExtendedWord
  intro imm ea s l a d r carry wellFormed wf writable
  rw [wellFormed_iff] at wellFormed
  have read := (formed_locate .l (s.pc + 4) 0 ea s).readLoc (readable_of_writable writable)
  rw [← lowBytes_l_zext]
  refine writesTo_of_alter wellFormed wf writable ?_
  rw [show exec _ s = execAddiw imm ea s from rfl, execAddiw, read, andThen_next, low32_eq]
  rfl

/-- Settles O20: both are a write of the register's long, with the flags under `ADDQ_BN_SETS_CC`. -/
theorem addqAndSubqChangeABRegister : Obligations.AddqAndSubqChangeABRegister := by
  unfold Obligations.AddqAndSubqChangeABRegister
  intro data bn s q d carry borrow l
  refine ⟨writesLong_of_setLong _ s l _ _ _ 2 ?_, writesLong_of_setLong _ s l _ _ _ 2 rfl⟩
  rw [BitVec.add_comm d q, show exec _ s = execAddqBn data bn s from rfl, execAddqBn, BitVec.add_comm (s.long (.b bn))]
  rfl

/-- Settles O21. -/
theorem comparesSetFlagsAsSubtraction : Obligations.ComparesSetFlagsAsSubtraction := by
  unfold Obligations.ComparesSetFlagsAsSubtraction
  refine ⟨fun bn dn s => rfl, ?_⟩
  intro imm ea s l a d _ readable
  have formed : Formed s (steppedEa ea) l := formed_locate .l (s.pc + 4) 0 ea s
  have meaning : exec (.cmpiw imm ea) s = .next ((l.st.setSr (s.sr.compared a d)).advance (4 + eaBytes .l ea)) := by
    rw [show exec _ s = execCmpiw imm ea s from rfl, execCmpiw, formed.readLoc readable, andThen_next, low32_eq]
    rfl
  exact ⟨_, meaning, by simp [StatusReg.compared], by simp [formed.pc, eaBytes], (formed.frame.setSr _).advance _,
    fun _ _ => by simp⟩

/-! ### CLR, the moves of a long, MOVE SR -/

/-- CLR of an admitted operand, alone (rules R146, R147). -/
theorem clear_writesTo {i : Instr} {sz : Size} {ea : Ea} {s : State} (admitted : eaComplaint .alter sz ea = none)
    (wf : s.mem.wf = true) (writable : Writable ((locate sz (s.pc + 2) 0 ea s).loc.addrs sz) s)
    (meaning : exec i s = clear sz .none ea s) :
    WritesTo i s sz (locate sz (s.pc + 2) 0 ea s) (steppedEa ea) 0 { s.sr with n := false, z := true, v := false, c := false }
      (2 + 2 * ea.extWords sz) := by
  rw [← lowBytes_zero sz]
  exact writesTo_of_alter admitted wf writable meaning

/-- Settles O22. -/
theorem clrWritesZeroOfItsSize : Obligations.ClrWritesZeroOfItsSize := by
  unfold Obligations.ClrWritesZeroOfItsSize
  intro ea s wf
  refine ⟨?_, fun off => lineA_off off _⟩
  simp only [List.forall_mem_cons, wellFormed_iff]
  refine ⟨?b, ?w, ?l, ?q, fun _ h => (by cases h)⟩
  case b => exact fun admitted writable _ => clear_writesTo admitted wf writable rfl
  case w => exact fun admitted writable _ => clear_writesTo admitted wf writable rfl
  case l => exact fun admitted writable _ => clear_writesTo admitted wf writable rfl
  case q => exact fun admitted writable on => clear_writesTo admitted wf writable (lineA_on (on trivial) _)

/-- A long moved to an admitted operand by an instruction of `own` bytes before its extension words (rules R170, R172,
R201). -/
theorem moveLong_writesTo {i : Instr} {own : Nat} {v : Long} {ea : Ea} {s : State}
    (admitted : eaComplaint .alter .l ea = none) (wf : s.mem.wf = true)
    (writable : Writable ((locate .l (s.pc + BitVec.ofNat 32 own) 0 ea s).loc.addrs .l) s)
    (meaning : exec i s = moveLong own .none v ea s) :
    WritesTo i s .l (locate .l (s.pc + BitVec.ofNat 32 own) 0 ea s) (steppedEa ea) (v.setWidth 64)
      { s.sr with n := v.msb, z := v == 0, v := false, c := false } (own + 2 * ea.extWords .l) := by
  rw [← lowBytes_l_zext]
  refine writesTo_of_alter admitted wf writable (meaning.trans ?_)
  rw [moveLong, show Prefix.none.bytes + own = own from Nat.zero_add own]
  rfl

/-- Settles O29. -/
theorem longMovesWriteTheirValue : Obligations.LongMovesWriteTheirValue := by
  unfold Obligations.LongMovesWriteTheirValue
  intro ea s wf flags
  simp only [wellFormed_iff]
  refine ⟨fun bn admitted writable => ?moveB, fun data admitted writable on => ?mov3q,
    fun imm admitted writable on => ?moviw, fun off => ⟨fun _ => lineA_off off _, fun _ => lineA_off off _⟩⟩
  case moveB => exact moveLong_writesTo (own := 2) admitted wf writable rfl
  case mov3q => exact moveLong_writesTo (own := 2) admitted wf writable (lineA_on on _)
  case moviw => exact moveLong_writesTo (own := 4) admitted wf writable (lineA_on on _)

/-- Settles O30. -/
theorem moveSrWritesTheStatusWord : Obligations.MoveSrWritesTheStatusWord := by
  unfold Obligations.MoveSrWritesTheStatusWord
  constructor
  · intro ea s l wellFormed wf writable
    rw [wellFormed_iff] at wellFormed
    rw [← lowBytes_w_setWidth]
    exact (formed_locate .w (s.pc + 2) 0 ea s).stores wf
      (loc_ne_imm_of_alter (allows_of_eaComplaint wellFormed) .w (s.pc + 2) 0 s) writable rfl
  · intro f
    refine ⟨?_, ?_, ?_, ?_, ?_, ?_, ?_⟩
    · simp (disch := omega) [StatusReg.word, BitVec.extractLsb'_append_eq_of_le, -Nat.reduceAdd]
    · simp (disch := omega) [StatusReg.word, BitVec.extractLsb'_append_eq_of_le,
        BitVec.extractLsb'_append_eq_of_add_le, -Nat.reduceAdd]
    all_goals
      simp only [StatusReg.word, BitVec.getLsbD_append]
      simp

/-! ### LEA, MOVEA, MOVS and MOVZ -/

/-- MOVEA of a readable operand, alone or in a bundle (rule R173). -/
theorem moveToB_eq (p : Prefix) (ea : Ea) (bn : Reg3) (s : State)
    (readable : Readable ((locate .l (s.pc + BitVec.ofNat 32 (p.bytes + 2)) p.aa ea s).loc.addrs .l) s) :
    let l := locate .l (s.pc + BitVec.ofNat 32 (p.bytes + 2)) p.aa ea s
    moveToB p ea bn s = .next ((l.st.setLong (.b bn) ((l.loc.value .l s).setWidth 32)).advance
      (p.bytes + 2 + eaBytes .l ea)) := by
  rw [moveToB, (formed_locate .l _ p.aa ea s).readLoc readable, andThen_next, low32_eq]
  rfl

/-- Settles O28. -/
theorem leaAndMoveaLoadAddressRegisters : Obligations.LeaAndMoveaLoadAddressRegisters := by
  unfold Obligations.LeaAndMoveaLoadAddressRegisters
  refine ⟨fun ea bn s a _ located => ?lea, fun bn an s => ?leaB, ?movea⟩
  case lea =>
    refine (formed_none s 0).loadsLong ?_
    rw [show exec _ s = execLeaEaBn ea bn s from rfl, execLeaEaBn, memAddr, located]
    rfl
  case leaB => exact (formed_none s 0).loadsLong rfl
  case movea =>
    intro ea bn s l _ readable
    exact (formed_locate .l (s.pc + 2) 0 ea s).loadsLong (moveToB_eq .none ea bn s readable)

/-- MOVS or MOVZ of a readable operand (rules R202, R203). -/
theorem moveExtended_writesLong {i : Instr} {ext : Size → QWord → Long} {sz : Size} {ea : Ea} {dn : Reg3} {s : State}
    {v : Long} (readable : Readable ((locate sz (s.pc + 2) 0 ea s).loc.addrs sz) s)
    (meaning : exec i s = moveExtended ext sz ea dn s)
    (value : ext sz ((locate sz (s.pc + 2) 0 ea s).loc.value sz s) = v) :
    WritesLong i s (locate sz (s.pc + 2) 0 ea s) (steppedEa ea) (.d (0#2 ++ dn)) v
      { s.sr with n := v.msb, z := v == 0, v := false, c := false } (2 + 2 * ea.extWords sz) := by
  subst value
  have formed := formed_locate sz (s.pc + 2) 0 ea s
  refine formed.writesLong (meaning.trans ?_)
  rw [moveExtended, formed.readLoc readable, andThen_next]
  rfl

/-- Settles O39. -/
theorem movsAndMovzExtendToLong : Obligations.MovsAndMovzExtendToLong := by
  unfold Obligations.MovsAndMovzExtendToLong
  intro sz ea dn s l v flags signed
  refine ⟨fun wellFormed readable on => ?movs, fun _ readable on => ?movz, fun off => ⟨lineA_off off _, lineA_off off _⟩⟩
  case movs =>
    refine moveExtended_writesLong readable (lineA_on on _) ?_
    rw [wellFormed_iff, Instr.complaint, firstComplaint_eq_none, need_eq_none] at wellFormed
    obtain ⟨size, -⟩ := wellFormed
    cases sz with
    | b => rfl
    | w => rfl
    | l => cases size
    | q => cases size
  case movz => exact moveExtended_writesLong readable (lineA_on on _) (low32_eq _)

/-! ### PERM -/

/-- Byte `k` of two longs, most significant first: of the first when `k` is below 4, else of the second (rule R208). -/
theorem permByte_eq (a b : Long) (k : BitVec 3) :
    permByte a b k = if k.toNat < 4 then a.extractLsb' (24 - 8 * k.toNat) 8 else b.extractLsb' (56 - 8 * k.toNat) 8 := by
  have bound := k.isLt
  rw [permByte, laneB]
  split
  · rw [BitVec.extractLsb'_append_eq_of_le (by omega), show 56 - 8 * k.toNat - 32 = 24 - 8 * k.toNat by omega]
  · rw [BitVec.extractLsb'_append_eq_of_add_le (by omega)]

/-- Settles O24. -/
theorem permPicksBytesOfBothOperands : Obligations.PermPicksBytesOfBothOperands := by
  unfold Obligations.PermPicksBytesOfBothOperands
  intro a b p0 p1 p2 p3 s ra rb pick
  refine (formed_none s 0).loadsLong ?_
  simp only [pick, ← permByte_eq]
  rfl

end Sys2Proof.Machine
end

section
/-!
PROOF. The branches (rules R141 to R150), the writes of SR and MOVEC (rules R183, R184, R192, R193), and the moves of
two data, of the upper word and with the bytes reversed (rules R195 to R199, R205).
-/

namespace Sys2Proof.Machine

/-! ### Branches -/

/-- The displacement of a short branch that is neither legacy form (rule R141, D12). -/
theorem branchDisp_eq_some {d8 : Byte} (h0 : d8 ≠ 0) (hF : d8 ≠ 0xFF) :
    branchDisp d8 =
      some (if d8.getLsbD 0 = false then d8.toInt else if 0 < d8.toInt then d8.toInt + 127 else d8.toInt - 129) := by
  rw [branchDisp, if_neg (by simp only [h0, hF, or_self, not_false_eq_true])]
  cases d8.getLsbD 0 <;> rfl

theorem branchDisp_eq_none {d8 : Byte} (h : d8 = 0 ∨ d8 = 0xFF) : branchDisp d8 = none := by rw [branchDisp, if_pos h]

/-- Settles O25: every branch of the table is `branchIf` of the code of its condition, and BRA that of T. -/
theorem branchesGoWhereTheDisplacementSays : Obligations.BranchesGoWhereTheDisplacementSays := by
  unfold Obligations.BranchesGoWhereTheDisplacementSays
  intro d8 s v disp target
  refine ⟨fun h0 hF => ?branches, fun legacy => ?refused⟩
  case branches =>
    have go (cc : BitVec 4) : branchIf cc d8 s = .next (s.setPc (if s.sr.cond cc then target else s.pc + 2)) := by
      rw [branchIf, branchDisp_eq_some h0 hF]
      rfl
    refine ⟨fun e he => ?_, go 0⟩
    obtain ⟨cc, meaning, cond, -⟩ := bcc_of_bccTable he
    rw [meaning, cond, go]
  case refused =>
    have stop (cc : BitVec 4) : branchIf cc d8 s = .refused .legacyBranch := by
      rw [branchIf, branchDisp_eq_none legacy]
    refine ⟨fun e he => ?_, stop 0, ?_⟩
    · obtain ⟨cc, meaning, -, -⟩ := bcc_of_bccTable he
      rw [meaning, stop]
    · rw [show exec _ s = execBsr d8 s from rfl, execBsr, branchDisp_eq_none legacy]

/-- A long is known from its zero-extension. -/
theorem long_of_zext {x y : Long} (h : x.setWidth 64 = y.setWidth 64) : x = y := by
  have := congrArg (BitVec.setWidth 32) h
  simpa using this

/-- Settles O26: the push is a write through `-(A7)`. -/
theorem bsrPushesTheReturnAddress : Obligations.BsrPushesTheReturnAddress := by
  unfold Obligations.BsrPushesTheReturnAddress
  intro d8 s v disp sp h0 hF wf writable
  obtain ⟨t, done, w, sr, -⟩ := (formed_locate .l 0 0 (.predec 7) s).writeLoc .l (zext (s.pc + 2)) wf
    (fun _ h => (by cases h)) writable
  refine ⟨t.setPc (s.pc + 2 + BitVec.ofInt 32 disp), ?_, ?_, ?_, rfl, sr, w.frame.setPc _⟩
  · rw [show exec _ s = execBsr d8 s from rfl, execBsr, branchDisp_eq_some h0 hF]
    exact congrArg (fun x => andThen x _) done
  · exact (w.stepped (.a 7) (List.mem_singleton_self _)).trans (State.long_setLong_self s (.a 7) sp)
  · exact long_of_zext (w.value.trans (lowBytes_l_zext _))

/-- One turn of the loop of DBcc.L and FDBcc.L (rules R150, R323). -/
theorem countDown_spec (base : Addr) (dn : Reg3) (disp : Word) (s : State) :
    let r := RegName.d (0#2 ++ dn)
    let t := countDown base dn disp s
    t.long r = s.long r - 1 ∧ UpperAsConfigured s t r ∧ t.sr = s.sr ∧ Frame [r] [] s t ∧
      t.pc = if s.long r = 0 then base + 2 else base + (disp &&& 0xFFFE).signExtend 32 := by
  intro r t
  have reached : (s.long r - 1 = 0xFFFFFFFF) = (s.long r = 0) := by
    generalize s.long r = x
    exact propext ⟨fun h => by bv_omega, fun h => by rw [h]; rfl⟩
  refine ⟨State.long_setLong_self s r _, setLong_upperAsConfigured s r _, by simp [t, countDown],
    (frame_setLong s r _).setPc _, ?_⟩
  show (if s.long r - 1 = 0xFFFFFFFF then _ else _) = _
  simp only [reached]
  rfl

/-- Settles O27. -/
theorem dbccCountsALongDown : Obligations.DbccCountsALongDown := by
  unfold Obligations.DbccCountsALongDown
  intro cc dn w s r condition
  refine ⟨fun _ => ⟨fun holds => ?falls, fun fails => ?counts⟩, fun cfg ws => decode_dbcc cfg cc dn w ws⟩
  case falls =>
    have cond : s.sr.cond cc = true := Option.some.inj ((conditionTable_getElem? s.sr cc).symm.trans holds)
    rw [show exec _ s = execDbccL cc dn w s from rfl, execDbccL, if_pos cond]
    rfl
  case counts =>
    have cond : s.sr.cond cc = false := Option.some.inj ((conditionTable_getElem? s.sr cc).symm.trans fails)
    obtain ⟨long, upper, sr, frame, pc⟩ := countDown_spec (s.pc + 2) dn w s
    refine ⟨_, ?_, long, upper, sr, frame, pc.trans ?_⟩
    · rw [show exec _ s = execDbccL cc dn w s from rfl, execDbccL, cond]
      rfl
    · rw [BitVec.add_assoc]
      rfl

/-! ### SR and the control registers -/

theorem setApollo_word (f : StatusReg) : f.setApollo.word = f.word ||| 0x0800 := by
  apply BitVec.eq_of_getLsbD_eq
  intro i hi
  simp only [StatusReg.word, StatusReg.setApollo, BitVec.getLsbD_or, BitVec.getLsbD_append]
  interval_cases i <;> simp

theorem clearApollo_word (f : StatusReg) : f.clearApollo.word = f.word &&& 0xF7FF := by
  apply BitVec.eq_of_getLsbD_eq
  intro i hi
  simp only [StatusReg.word, StatusReg.clearApollo, BitVec.getLsbD_and, BitVec.getLsbD_append]
  interval_cases i <;> simp

/-- Settles O31. -/
theorem apolloBitIsSetAndClearedInAnyMode : Obligations.ApolloBitIsSetAndClearedInAnyMode := by
  unfold Obligations.ApolloBitIsSetAndClearedInAnyMode
  intro imm s
  have oriSr (h : imm ≠ 0x0800) : exec (.oriSr imm) s =
      if s.sr.supervisor then .refused .legacySrImmediate else raise .privilegeViolation s.pc s := by
    rw [show exec _ s = execOriSr imm s from rfl, execOriSr, if_neg h]
  have andiSr (h : imm ≠ 0xF7FF) : exec (.andiSr imm) s =
      if s.sr.supervisor then .refused .legacySrImmediate else raise .privilegeViolation s.pc s := by
    rw [show exec _ s = execAndiSr imm s from rfl, execAndiSr, if_neg h]
  rw [word_bit13]
  refine ⟨⟨_, rfl, setApollo_word s.sr, rfl, rfl, ((Frame.refl [] [] s).setSr _).advance 4⟩,
    ⟨_, rfl, clearApollo_word s.sr, rfl, rfl, ((Frame.refl [] [] s).setSr _).advance 4⟩, fun user => ?_, fun super => ?_⟩
  · simp only [user] at oriSr andiSr
    exact ⟨oriSr, andiSr⟩
  · simp only [super] at oriSr andiSr
    exact ⟨oriSr, andiSr⟩

/-- The number of a counter of the table names it, and a read of it changes its field only (rules R36, R38). -/
theorem counter_of_counterTable {e : BitVec 12 × (Counters → Long)} (h : e ∈ counterTable) :
    ∃ k, controlReg e.1 = some (.counter k) ∧ (∀ c v, e.2 (Counters.put c k v) = v) ∧
      ∀ o ∈ counterTable, o.1 ≠ e.1 → ∀ c v, o.2 (Counters.put c k v) = o.2 c := by
  simp only [counterTable, List.mem_cons, List.not_mem_nil, or_false] at h
  rcases h with rfl | rfl | rfl | rfl | rfl | rfl | rfl | rfl | rfl | rfl | rfl | rfl
  all_goals exact ⟨_, rfl, fun _ _ => rfl, by simp [counterTable, Counters.put]⟩

/-- A number the table does not list names nothing (rules R36, R192). -/
theorem controlReg_eq_none {creg : BitVec 12} (pcr : creg ≠ 0x808) (counters : ∀ e ∈ counterTable, creg ≠ e.1) :
    controlReg creg = none := by
  simp only [counterTable, List.forall_mem_cons] at counters
  obtain ⟨h9, hA, hB, hC, hD, hE, hF, ha, hb, hc, hd, he, -⟩ := counters
  unfold controlReg
  split
  · exact absurd rfl pcr
  · exact absurd rfl h9
  · exact absurd rfl hA
  · exact absurd rfl hB
  · exact absurd rfl hC
  · exact absurd rfl hD
  · exact absurd rfl hE
  · exact absurd rfl hF
  · exact absurd rfl ha
  · exact absurd rfl hb
  · exact absurd rfl hc
  · exact absurd rfl hd
  · exact absurd rfl he
  · rfl

/-- The fields of PCR as MOVEC reads it (rule R37). -/
theorem pcrWord_fields (cfg : Config) (p : Pcr) :
    let v := pcrWord cfg p
    v.extractLsb' 16 16 = 0x0440 ∧ v.extractLsb' 8 8 = cfg.pcrRevision ∧ v.getLsbD 7 = p.edebug ∧ v.getLsbD 6 = p.amiga ∧
      v.extractLsb' 2 4 = 0#4 ∧ v.getLsbD 1 = p.dfp ∧ v.getLsbD 0 = p.ess := by
  refine ⟨?_, ?_, ?_, ?_, ?_, ?_, ?_⟩
  case refine_1 | refine_2 | refine_5 =>
    simp (disch := omega) [pcrWord, BitVec.extractLsb'_append_eq_of_le, BitVec.extractLsb'_append_eq_of_add_le,
      -Nat.reduceAdd]
  all_goals
    simp only [pcrWord, BitVec.getLsbD_append]
    simp

/-- A counter read into a register changes the counters beside the register (rule R38). -/
theorem frame_readCounter (s : State) (k : Counter) (r : RegName) :
    Frame [r] [] s ((((readCounter k s).2.setLong r (readCounter k s).1).advance 4).setCounters s.counters) where
  reg x hx := by
    rw [List.mem_singleton] at hx
    exact State.reg_setLong_ne _ r x _ hx
  byte a _ := by simp [readCounter]
  usp := by simp [readCounter]
  fpr := by simp [readCounter]
  fpcc := by simp [readCounter]
  pcr := by simp [readCounter]
  counters := rfl
  text := by simp [readCounter]
  regions := by simp [readCounter]
  cfg := by simp [readCounter]

/-- Settles O33. -/
theorem movecReadsPcrAndCounters : Obligations.MovecReadsPcrAndCounters := by
  unfold Obligations.MovecReadsPcrAndCounters
  refine ⟨fun rn s => ?pcr, ?reset, fun e he rn s => ?counter, fun rn creg s notPcr notCounter => ?unlisted⟩
  case pcr => exact ⟨pcrWord s.cfg s.pcr, (formed_none s 0).loadsLong rfl, pcrWord_fields s.cfg s.pcr⟩
  case reset => exact (formed_none State.reset 0).loadsLong (v := pcrWord State.reset.cfg State.reset.pcr) rfl
  case counter =>
    obtain ⟨k, names, own, others⟩ := counter_of_counterTable he
    have meaning : exec (.movecRcRn rn e.1) s =
        .next (((readCounter k s).2.setLong (rn4 rn) (readCounter k s).1).advance 4) := by
      rw [show exec _ s = execMovecRcRn rn e.1 s from rfl, execMovecRcRn, names]
      rfl
    refine ⟨_, meaning, ?_, fun o ho ne => ?_, frame_readCounter s k (rn4 rn), by simp [readCounter], by simp [readCounter]⟩
    · simp [readCounter, own]
    · simp [readCounter, others o ho ne]
  case unlisted =>
    rw [show exec _ s = execMovecRcRn rn creg s from rfl, execMovecRcRn, controlReg_eq_none notPcr notCounter]
    rfl

/-- Settles O34. -/
theorem movecWritesPcrInSupervisorModeOnly : Obligations.MovecWritesPcrInSupervisorModeOnly := by
  unfold Obligations.MovecWritesPcrInSupervisorModeOnly
  intro rn creg s v
  rw [word_bit13]
  refine ⟨fun user => ?user, fun super => ?super⟩
  case user =>
    rw [show exec _ s = execMovecRnRc rn creg s from rfl, execMovecRnRc, user]
    rfl
  case super =>
    have meaning (c : BitVec 12) : exec (.movecRnRc rn c) s = finish 4 (match controlReg c with
        | none => .refused .controlRegister
        | some .pcr => if v.extractLsb' 2 4 = 0#4 then .next (s.setPcr (pcrOf v)) else .refused .pcrReserved
        | some (.counter _) => .refused .counterWrite) := if_pos super
    refine ⟨fun zero => ?_, fun nonzero => ?_, fun e he => ?_, fun notPcr notCounter => ?_⟩
    · rw [meaning, show controlReg 0x808 = some .pcr from rfl]
      simp only [zero, if_true]
      rfl
    · rw [meaning, show controlReg 0x808 = some .pcr from rfl]
      simp only [nonzero, if_false]
      rfl
    · obtain ⟨k, names, -, -⟩ := counter_of_counterTable he
      rw [meaning, names]
      rfl
    · rw [meaning, controlReg_eq_none notPcr notCounter]
      rfl

/-! ### Two data side by side -/

theorem rn4_injective : ∀ b c : Reg4, rn4 b = rn4 c → b = c := by decide

/-- A datum fills no more than its size. -/
theorem lowBytes_sizedAt (sz : Size) (s : State) (a : Addr) : lowBytes sz (s.sizedAt sz a) = s.sizedAt sz a := by
  cases sz <;> simp [lowBytes, State.sizedAt, ← BitVec.setWidth_eq_extractLsb']

/-- A datum below a quad, as a long, is the datum. -/
theorem zext_low32_sizedAt (sz : Size) (h : sz ≠ .q) (s : State) (a : Addr) :
    (low32 (s.sizedAt sz a)).setWidth 64 = s.sizedAt sz a := by
  cases sz with
  | q => exact absurd rfl h
  | _ => simp [State.sizedAt, low32_setWidth]

/-- A datum in memory depends on its own bytes. -/
theorem sizedAt_congr (sz : Size) {s t : State} {a : Addr} (h : ∀ x ∈ span a sz.bytes, t.byteAt x = s.byteAt x) :
    t.sizedAt sz a = s.sizedAt sz a := by
  have byte (k : Nat) (hk : k < sz.bytes) : t.byteAt (a + BitVec.ofNat 32 k) = s.byteAt (a + BitVec.ofNat 32 k) :=
    h _ (mem_span.mpr ⟨k, hk, rfl⟩)
  have first (hk : 0 < sz.bytes) : t.byteAt a = s.byteAt a := by
    have := byte 0 hk
    rwa [show a + BitVec.ofNat 32 0 = a from BitVec.add_zero a] at this
  have shift (i j : Nat) : a + BitVec.ofNat 32 i + BitVec.ofNat 32 j = a + BitVec.ofNat 32 (i + j) := add_ofNat_add a i j
  have word (k : Nat) (hk : k + 1 < sz.bytes) (x : Addr) (hx : x = a + BitVec.ofNat 32 k) : t.wordAt x = s.wordAt x := by
    subst hx
    rw [State.wordAt, State.wordAt, byte k (by omega), show (1 : Addr) = BitVec.ofNat 32 1 from rfl, shift, byte (k + 1) hk]
  have start : a = a + BitVec.ofNat 32 0 := (BitVec.add_zero a).symm
  cases sz with
  | b => rw [State.sizedAt, State.sizedAt, first (by decide)]
  | w => rw [State.sizedAt, State.sizedAt, word 0 (by decide) a start]
  | l =>
    rw [State.sizedAt, State.sizedAt, State.longAt, State.longAt, word 0 (by decide) a start,
      word 2 (by decide) (a + 2) rfl]
  | q =>
    simp only [State.sizedAt, State.quadAt, State.longAt]
    rw [word 0 (by decide) a start, word 2 (by decide) (a + 2) rfl, word 4 (by decide) (a + 4) rfl,
      word 6 (by decide) (a + 4 + 2) (shift 4 2)]

/-- A sized store into data that is no program text completes (rules R60, R72, R80). -/
theorem writeMem_ok (sz : Size) (a : Addr) (v : QWord) (s : State) (wf : s.mem.wf = true)
    (writable : Writable (span a sz.bytes) s) :
    ∃ t, writeMem sz a v s = .next t ∧ t.sizedAt sz a = lowBytes sz v ∧ t.sr = s.sr ∧ t.pc = s.pc ∧
      Frame [] (span a sz.bytes) s t ∧ t.mem.wf = true := by
  obtain ⟨t, done, value, sr, pc, frame⟩ := writeLoc_ok sz ⟨.mem a, s⟩ v wf (fun _ h => (by cases h)) writable
  refine ⟨t, done, value, sr, pc, frame, ?_⟩
  obtain ⟨-, -, rfl⟩ := (writeMem_eq_next sz a v s t).mp done
  exact Memory.wf_store _ _ _ wf

theorem memAddr_of_mem {l : Located} {p : Addr} (h : l.loc = .mem p) : memAddr l = .next p := by rw [memAddr, h]

theorem readMem_ok (sz : Size) (a : Addr) (s : State) (readable : Readable (span a sz.bytes) s) :
    readMem sz a s = .next (s.sizedAt sz a) := (readMem_eq_next sz a s _).mpr ⟨readable, rfl⟩

/-- Adjacent data do not overlap (rule R64). -/
theorem span_disjoint (sz : Size) (p : Addr) :
    ∀ x ∈ span p sz.bytes, x ∉ span (p + BitVec.ofNat 32 sz.bytes) sz.bytes := by
  intro x hx hy
  obtain ⟨i, hi, rfl⟩ := mem_span.mp hx
  obtain ⟨j, hj, e⟩ := mem_span.mp hy
  rw [add_ofNat_add] at e
  have := congrArg BitVec.toNat (BitVec.add_right_inj p |>.mp e)
  rw [BitVec.toNat_ofNat, BitVec.toNat_ofNat] at this
  have bound : sz.bytes ≤ 8 := by cases sz <;> decide
  omega

section

variable {put : State → RegName → QWord → State} {sz : Size} {r1 r2 : RegName} {ea : Ea} {s : State} {p : Addr}
  (located : (locate sz (s.pc + 4) 0 ea s).loc = .mem p)

include located

/-- MOVE2 and the old MOVE2 loading: both data are read before a register is written (rules R195, R196). -/
theorem movePair_load (readable : Readable (span p sz.bytes) s)
    (readable2 : Readable (span (p + BitVec.ofNat 32 sz.bytes) sz.bytes) s) :
    movePair put sz false r1 r2 ea s =
      .next (((put (put s r1 (s.sizedAt sz p)) r2 (s.sizedAt sz (p + BitVec.ofNat 32 sz.bytes))).setSr
        (s.sr.movedSized sz (s.sizedAt sz p))).advance (4 + eaBytes sz ea)) := by
  rw [movePair, memAddr_of_mem located, andThen_next, if_neg Bool.false_ne_true, readPair, readMem_ok sz p s readable,
    andThen_next, readMem_ok sz _ s readable2, andThen_next, andThen_next]
  rfl

/-- MOVE2 and the old MOVE2 storing: the two data stand side by side (rules R195, R196). -/
theorem movePair_store (wf : s.mem.wf = true) (writable : Writable (span p sz.bytes) s)
    (writable2 : Writable (span (p + BitVec.ofNat 32 sz.bytes) sz.bytes) s) :
    ∃ t, movePair put sz true r1 r2 ea s = .next t ∧ t.sizedAt sz p = lowBytes sz (s.quad r1) ∧
      t.sizedAt sz (p + BitVec.ofNat 32 sz.bytes) = lowBytes sz (s.quad r2) ∧
      t.sr = s.sr.movedSized sz (lowBytes sz (s.quad r1)) ∧
      t.pc = s.pc + BitVec.ofNat 32 (4 + 2 * ea.extWords sz) ∧
      Frame [] (span p sz.bytes ++ span (p + BitVec.ofNat 32 sz.bytes) sz.bytes) s t := by
  obtain ⟨t, first, value, -, pc, frame, wf⟩ := writeMem_ok sz p (s.quad r1) s wf writable
  have writable2 : Writable (span (p + BitVec.ofNat 32 sz.bytes) sz.bytes) t := fun a ha => by
    rw [inData_congr frame.regions, inText_congr frame.text]
    exact writable2 a ha
  obtain ⟨u, second, value2, -, pc2, frame2, -⟩ := writeMem_ok sz _ (s.quad r2) t wf writable2
  refine ⟨(u.setSr (s.sr.movedSized sz (lowBytes sz (s.quad r1)))).advance (4 + eaBytes sz ea), ?_, ?_, value2, by simp,
    by simp [pc2, pc, eaBytes], ((frame.trans frame2).setSr _).advance _⟩
  · rw [movePair, memAddr_of_mem located, andThen_next, if_pos rfl, first, andThen_next, second, andThen_next]
    rfl
  · refine Eq.trans ?_ value
    exact sizedAt_congr sz fun x hx => frame2.byte x (span_disjoint sz p x hx)

end

/-- Settles O35. -/
theorem move2MovesTwoRegisters : Obligations.Move2MovesTwoRegisters := by
  unfold Obligations.Move2MovesTwoRegisters
  intro sz b c ea s p n q flags located
  refine ⟨fun wellFormed readable readable2 => ?load, fun _ wf writable writable2 => ?store⟩
  case store => exact movePair_store (put := fun s r v => s.setPart sz r v) located wf writable writable2
  case load =>
    simp only [wellFormed_iff, Instr.complaint, move2Complaint, firstComplaint_eq_none, need_eq_none] at wellFormed
    obtain ⟨-, size, -, -, different⟩ := wellFormed
    have size : sz ≠ .q := by simpa using size
    have apart : rn4 b ≠ rn4 c := fun e => by simp [rn4_injective b c e] at different
    have meaning : exec (.move2 sz false b c ea) s = _ :=
      movePair_load (put := fun s r v => s.setPart sz r v) (r1 := rn4 b) (r2 := rn4 c) located readable readable2
    have kept (u : State) : (u.setPart sz (rn4 c) (s.sizedAt sz q)).reg (rn4 b) = u.reg (rn4 b) :=
      State.reg_setPart_ne u sz _ _ _ apart
    have keptC : (s.setPart sz (rn4 b) (s.sizedAt sz p)).reg (rn4 c) = s.reg (rn4 c) :=
      State.reg_setPart_ne s sz _ _ _ apart.symm
    refine ⟨_, meaning, ?_, ?_, ?_, ?_, by simp; rfl, by simp [eaBytes], ?_⟩
    · refine (congrArg (fun x => lowBytes sz (Reg64.quad x)) (kept _)).trans ?_
      exact (lowBytes_setPart sz s (rn4 b) _).trans (lowBytes_sizedAt sz s p)
    · exact (lowBytes_setPart sz _ (rn4 c) _).trans (lowBytes_sizedAt sz s q)
    · refine (congrArg (fun x : Reg64 => x.lo >>> (8 * n)) (kept _)).trans ?_
      exact (setPart_keepsAbove sz s (rn4 b) _ size).1
    · exact ((setPart_keepsAbove sz _ (rn4 c) _ size).1).trans (congrArg (fun x : Reg64 => x.lo >>> (8 * n)) keptC)
    · exact (((frame_setPart s sz (rn4 b) _).trans (frame_setPart _ sz (rn4 c) _)).setSr _).advance _

/-- Two longs written to two registers are there, and nothing else has changed. -/
theorem setLong_setLong_spec (s : State) {r1 r2 : RegName} (apart : r1 ≠ r2) (v1 v2 : Long) :
    let t := (s.setLong r1 v1).setLong r2 v2
    t.long r1 = v1 ∧ t.long r2 = v2 ∧ Frame [r1, r2] [] s t := by
  refine ⟨?_, State.long_setLong_self .., (frame_setLong s r1 v1).trans (frame_setLong _ r2 v2)⟩
  exact (congrArg Reg64.lo (State.reg_setLong_ne _ r2 r1 v2 apart)).trans (State.long_setLong_self s r1 v1)

/-- Settles O36. -/
theorem oldMove2ZeroExtendsAnEvenPair : Obligations.OldMove2ZeroExtendsAnEvenPair := by
  unfold Obligations.OldMove2ZeroExtendsAnEvenPair
  intro sz b ea s p n q flags located
  refine ⟨fun wellFormed readable readable2 => ?load, fun _ wf writable writable2 => ?store⟩
  case store => exact movePair_store (put := fun s r v => s.setLong r (low32 v)) located wf writable writable2
  case load =>
    simp only [wellFormed_iff, Instr.complaint, firstComplaint_eq_none, need_eq_none] at wellFormed
    obtain ⟨-, size, -⟩ := wellFormed
    have size : sz ≠ .q := by simpa using size
    have next : ∀ b : Reg4, b ≠ b + 1 := by decide
    have meaning : exec (.move2Old sz false b ea) s = _ :=
      movePair_load (put := fun s r v => s.setLong r (low32 v)) (r1 := rn4 b) (r2 := rn4 (b + 1)) located readable readable2
    obtain ⟨first, second, frame⟩ := setLong_setLong_spec s (fun e => next b (rn4_injective _ _ e))
      (low32 (s.sizedAt sz p)) (low32 (s.sizedAt sz q))
    refine ⟨_, meaning, ?_, ?_, by simp; rfl, by simp [eaBytes], (frame.setSr _).advance _⟩
    · exact (congrArg _ first).trans (zext_low32_sizedAt sz size s p)
    · exact (congrArg _ second).trans (zext_low32_sizedAt sz size s q)

/-- A draw changes no register and no memory (rule R12). -/
theorem frame_drawn (s : State) : Frame [] [] s s.drawn :=
  ⟨fun _ _ => rfl, fun _ _ => rfl, rfl, rfl, rfl, rfl, rfl, rfl, rfl, rfl⟩

/-- Settles O40: when the first datum's top bit is set N is the free value's, and nothing is said of it. -/
theorem movz2ZeroExtendsTwoData : Obligations.Movz2ZeroExtendsTwoData := by
  unfold Obligations.Movz2ZeroExtendsTwoData
  intro sz b c ea s p n q located wellFormed readable readable2
  simp only [wellFormed_iff, Instr.complaint, firstComplaint_eq_none, need_eq_none] at wellFormed
  obtain ⟨size, -, different⟩ := wellFormed
  have size : sz ≠ .q := by rintro rfl; cases size
  have apart : rn4 b ≠ rn4 c := fun e => by simp [rn4_injective b c e] at different
  obtain ⟨first, second, frame⟩ := setLong_setLong_spec s apart (low32 (s.sizedAt sz p)) (low32 (s.sizedAt sz q))
  generalize ht : (s.setLong (rn4 b) (low32 (s.sizedAt sz p))).setLong (rn4 c) (low32 (s.sizedAt sz q)) = t at first second frame
  have pc : t.pc = s.pc := by simp [← ht]
  have meaning : exec (.movz2 sz b c ea) s = finish (4 + eaBytes sz ea)
      (if (s.sizedAt sz p).getLsbD (8 * n - 1) then
        .next (t.drawn.setSr (s.sr.moved (t.free.getLsbD 0) (s.sizedAt sz p == 0)))
      else .next (t.setSr (s.sr.moved false (s.sizedAt sz p == 0)))) := by
    rw [show exec _ s = execMovz2 sz b c ea s from rfl, execMovz2, memAddr_of_mem located, andThen_next, readPair,
      readMem_ok sz p s readable, andThen_next, readMem_ok sz q s readable2, andThen_next, andThen_next, ← ht]
  have data := And.intro ((congrArg (BitVec.setWidth 64) first).trans (zext_low32_sizedAt sz size s p))
    ((congrArg (BitVec.setWidth 64) second).trans (zext_low32_sizedAt sz size s q))
  cases top : (s.sizedAt sz p).getLsbD (8 * n - 1) with
  | false =>
    rw [top] at meaning
    exact ⟨_, meaning, data.1, data.2, ⟨false, rfl, fun _ => rfl⟩, by simp [pc, eaBytes], (frame.setSr _).advance _⟩
  | true =>
    rw [top] at meaning
    refine ⟨_, meaning, data.1, data.2, ⟨t.free.getLsbD 0, rfl, fun h => (by cases h)⟩, by simp [pc, eaBytes], ?_⟩
    exact ((frame.trans (frame_drawn t)).setSr _).advance _

/-! ### MOVEH and MOVEX -/

/-- The flags of a word, given zero-extended (rules R33, R198). -/
theorem movedSized_w (f : StatusReg) (v : Word) :
    f.movedSized .w (v.setWidth 64) = { f with n := v.msb, z := v == 0, v := false, c := false } := by
  have zero : ((v.setWidth 64 : QWord) == 0) = (v == 0) := by
    rw [Bool.eq_iff_iff, beq_iff_eq, beq_iff_eq]
    exact ⟨fun h => by simpa using congrArg (BitVec.setWidth 16) h, fun h => by rw [h]; rfl⟩
  have top : (v.setWidth 64).getLsbD (8 * Size.w.bytes - 1) = v.msb := by
    simp [Size.bytes, BitVec.msb_eq_getLsbD_last]
  rw [StatusReg.movedSized, StatusReg.moved, zero, top]

/-- Settles O37. -/
theorem movehMovesTheUpperWord : Obligations.MovehMovesTheUpperWord := by
  unfold Obligations.MovehMovesTheUpperWord
  intro b ea s p flags located
  have addr := memAddr_of_mem located
  have low (v : Word) : (v.setWidth 64 : QWord).extractLsb' 0 16 = v := by simp [← BitVec.setWidth_eq_extractLsb']
  refine ⟨fun _ readable => ?load, fun _ wf writable => ?store⟩
  case load =>
    refine (formed_none s 0).writesLong ?_
    rw [show exec _ s = execMoveh false b ea s from rfl, execMoveh, addr, andThen_next, if_neg Bool.false_ne_true,
      readMem_ok .w p s readable, andThen_next, State.sizedAt, low, movedSized_w]
    rfl
  case store =>
    obtain ⟨t, done, value, -, pc, frame, -⟩ :=
      writeMem_ok .w p (((s.long (rn4 b)).extractLsb' 16 16).setWidth 64) s wf writable
    rw [lowBytes_w_setWidth] at value
    refine ⟨(t.setSr (flags ((s.long (rn4 b)).extractLsb' 16 16))).advance (4 + eaBytes .w ea), ?_, ?_, by simp,
      by simp [pc, eaBytes], (frame.setSr _).advance _⟩
    · rw [show exec _ s = execMoveh true b ea s from rfl, execMoveh, addr, andThen_next, if_pos rfl]
      simp only [done, andThen_next, movedSized_w]
      rfl
    · exact (low _).symm.trans ((congrArg (BitVec.extractLsb' 0 16) value.symm).trans (low _)) |>.symm

/-- A reversed word or long fills no more than its size. -/
theorem lowBytes_revBytes (sz : Size) (h : sz = .w ∨ sz = .l) (v : QWord) : lowBytes sz (revBytes sz v) = revBytes sz v := by
  rcases h with rfl | rfl <;> simp [lowBytes, revBytes, ← BitVec.setWidth_eq_extractLsb']

/-- Settles O38. -/
theorem movexReversesTheBytes : Obligations.MovexReversesTheBytes := by
  unfold Obligations.MovexReversesTheBytes
  intro sz b ea s l rev flags
  have formed : Formed s (steppedEa ea) l := formed_locate sz (s.pc + 4) 0 ea s
  have isRev (h : sz = .w ∨ sz = .l) (v : QWord) : revBytes sz v = rev v := by rcases h with rfl | rfl <;> rfl
  simp only [wellFormed_iff, Instr.complaint, firstComplaint_eq_none, need_eq_none, Bool.or_eq_true, beq_iff_eq]
  refine ⟨fun ⟨size, _, _⟩ readable => ?load, fun ⟨size, operand, _⟩ wf writable => ?store⟩
  case load =>
    have notQuad : sz ≠ .q := by rcases size with rfl | rfl <;> decide
    have meaning : exec (.movex sz false b ea) s = .next (((l.st.setPart sz (rn4 b) (rev (l.loc.value sz s))).setSr
        (flags (rev (l.loc.value sz s)))).advance (4 + eaBytes sz ea)) := by
      rw [show exec _ s = execMovex sz false b ea s from rfl, execMovex, if_neg Bool.false_ne_true,
        formed.readLoc readable, andThen_next, isRev size]
      rfl
    refine ⟨_, meaning, ?_, (setPart_keepsAbove sz l.st (rn4 b) _ notQuad).1, ?_, by simp, by simp [formed.pc, eaBytes], ?_,
      fun r _ ne => congrArg Reg64.lo (State.reg_setPart_ne l.st sz (rn4 b) r _ ne)⟩
    · refine (lowBytes_setPart sz l.st (rn4 b) _).trans ?_
      rw [← isRev size, lowBytes_revBytes sz size]
    · rw [setPart_eq_setLong l.st sz notQuad]
      exact formed.upperAsConfigured (rn4 b) _
    · rw [setPart_eq_setLong l.st sz notQuad]
      exact ((formed.frame_setLong (rn4 b) _).setSr _).advance _
  case store =>
    have allowed : EaClass.allows .swapWrite ea = true := allows_of_eaComplaint (sz := sz) (by simpa using operand)
    have notImm (w : QWord) : l.loc ≠ .imm w := by
      intro h
      cases ea with
      | imm v => cases allowed
      | _ => cases h
    rw [← isRev size, ← lowBytes_revBytes sz size]
    refine formed.writesTo wf notImm writable ?_
    rw [show exec _ s = execMovex sz true b ea s from rfl, execMovex, if_pos rfl, lowBytes_revBytes sz size]
    rfl

end Sys2Proof.Machine
end

section
/-!
PROOF. MOVE16 (rules R66, R186 to R188), and the BANK bundle (rules R136 to R140): with zero fields it is its inner
instruction two bytes further, since the operations do not look at `pc`; with others it extends register operands.
-/

namespace Sys2Proof.Machine

/-! ### MOVE16 -/

theorem overlaps16_eq_false {src dst : Addr} (h : src = dst ∨ (16 ≤ (dst - src).toNat ∧ 16 ≤ (src - dst).toNat)) :
    overlaps16 src dst = false := by
  obtain rfl | ⟨h1, h2⟩ := h
  · simp [overlaps16]
  · simp only [overlaps16, decide_eq_false (show ¬ (dst - src).toNat < 16 by omega),
      decide_eq_false (show ¬ (src - dst).toNat < 16 by omega), Bool.or_self, Bool.and_false]

theorem overlaps16_eq_true {src dst : Addr} (ne : src ≠ dst) (h : (dst - src).toNat < 16 ∨ (src - dst).toNat < 16) :
    overlaps16 src dst = true := by
  simp only [overlaps16, Bool.and_eq_true, bne_iff_ne, Bool.or_eq_true, decide_eq_true_eq]
  exact ⟨ne, h⟩

theorem readBytes_ok (n : Nat) (a : Addr) (s : State) (readable : Readable (span a n) s) :
    readBytes n a s = .next ((span a n).map s.byteAt) := by
  rw [readBytes, accessCheck_ok _ _ readable, andThen_next]

/-- A row of bytes stored into data that is no program text (rules R60, R72, R80). -/
theorem storeRow_ok (dst : Addr) (bs : List Byte) (s : State) (wf : s.mem.wf = true) (short : bs.length ≤ 2 ^ 32)
    (writable : Writable (span dst bs.length) s) :
    ∃ t, storeBytes dst (bs.map some) s = .next t ∧
      (∀ j (hj : j < bs.length), t.byteAt (dst + BitVec.ofNat 32 j) = bs[j]) ∧ Frame [] (span dst bs.length) s t ∧
      t.sr = s.sr ∧ t.pc = s.pc := by
  have addresses := written_map_some bs dst
  rw [← addresses] at writable ⊢
  refine ⟨_, (storeBytes_eq_next dst (bs.map some) s _).mpr
    ⟨fun x hx => (writable x hx).2, fun x hx => (writable x hx).1, rfl⟩,
    fun j hj => byteAt_store s dst bs wf j hj short, frame_store s dst _ wf, rfl, rfl⟩

/-- Sixteen bytes copied: all are read before any is written (rules R66, R188). -/
theorem copy16_ok (src dst : Addr) (s : State)
    (apart : src = dst ∨ (16 ≤ (dst - src).toNat ∧ 16 ≤ (src - dst).toNat)) (wf : s.mem.wf = true)
    (readable : Readable (span src 16) s) (writable : Writable (span dst 16) s) :
    ∃ t, copy16 src dst s = .next t ∧
      (∀ j, j < 16 → t.byteAt (dst + BitVec.ofNat 32 j) = s.byteAt (src + BitVec.ofNat 32 j)) ∧
      Frame [] (span dst 16) s t ∧ t.sr = s.sr ∧ t.pc = s.pc := by
  have read := readBytes_ok 16 src s readable
  have length : ((span src 16).map s.byteAt).length = 16 := by simp [span]
  have source (j : Nat) (hj : j < ((span src 16).map s.byteAt).length) :
      ((span src 16).map s.byteAt)[j] = s.byteAt (src + BitVec.ofNat 32 j) := by simp [span]
  generalize (span src 16).map s.byteAt = bs at read length source
  rw [← length] at writable ⊢
  obtain ⟨t, done, bytes, frame, kept⟩ := storeRow_ok dst bs s wf (by omega) writable
  refine ⟨t, ?_, fun j hj => (bytes j hj).trans (source j hj), frame, kept⟩
  rw [copy16, overlaps16_eq_false apart, if_neg Bool.false_ne_true, read, andThen_next, done]

/-- What each form of MOVE16 does: it copies, steps its `(An)+` registers by 16 and steps `pc` past its `n` bytes; ranges
that overlap without being equal are refused (rules R186 to R188, D33). -/
def CopiesSixteen (s : State) (i : Instr) (src dst : Addr) (stepped : List Reg3) (n : Nat) : Prop :=
  (src = dst ∨ (16 ≤ (dst - src).toNat ∧ 16 ≤ (src - dst).toNat) →
    s.mem.wf = true → Readable (span src 16) s → Writable (span dst 16) s →
    ∃ t, exec i s = .next t ∧
      (∀ j, j < 16 → t.byteAt (dst + BitVec.ofNat 32 j) = s.byteAt (src + BitVec.ofNat 32 j)) ∧
      (∀ r ∈ stepped, t.long (.a r) = s.long (.a r) + 16) ∧
      Frame (stepped.map .a) (span dst 16) s t ∧ t.sr = s.sr ∧ t.pc = s.pc + BitVec.ofNat 32 n) ∧
  (src ≠ dst → (dst - src).toNat < 16 ∨ (src - dst).toNat < 16 → exec i s = .refused .move16Overlap)

/-- A form of MOVE16 is the copy, followed by writes that step its registers. -/
theorem copiesSixteen_of_meaning {s : State} {i : Instr} {src dst : Addr} {stepped : List Reg3} {n : Nat}
    (step : State → State) (meaning : exec i s = finish n (andThen (copy16 src dst s) fun t => .next (step t)))
    (frame : ∀ t, Frame (stepped.map .a) [] t (step t)) (sr : ∀ t, (step t).sr = t.sr) (pc : ∀ t, (step t).pc = t.pc)
    (long : ∀ t, ∀ r ∈ stepped, (step t).long (.a r) = s.long (.a r) + 16) : CopiesSixteen s i src dst stepped n := by
  refine ⟨fun apart wf readable writable => ?copies, fun ne close => ?refused⟩
  case copies =>
    obtain ⟨t, done, bytes, kept, srt, pct⟩ := copy16_ok src dst s apart wf readable writable
    rw [done] at meaning
    refine ⟨_, meaning, fun j hj => ?_, long t, ?_, (sr t).trans srt, ?_⟩
    · exact ((frame t).byte _ List.not_mem_nil).trans (bytes j hj)
    · exact ((kept.trans (frame t)).advance n).mono (by simp) (by simp)
    · rw [State.advance_pc, pc, pct]
  case refused =>
    rw [meaning, copy16, if_pos (overlaps16_eq_true ne close)]
    rfl

theorem bump16_frame (n : Reg3) (p : Addr) (t : State) : Frame [.a n] [] t (bump16 n p t) := frame_setLong ..

/-- Settles O32. -/
theorem move16CopiesSixteenBytes : Obligations.Move16CopiesSixteenBytes := by
  unfold Obligations.Move16CopiesSixteenBytes
  intro ax ay l s copies
  have onlyStep (src dst : Addr) (i : Instr)
      (meaning : exec i s = finish 6 (andThen (copy16 src dst s) fun t => .next (bump16 ax (s.long (.a ax)) t))) :
      CopiesSixteen s i src dst [ax] 6 := by
    refine copiesSixteen_of_meaning _ meaning (bump16_frame ax _) (by simp [bump16]) (by simp [bump16]) fun t r hr => ?_
    rw [List.mem_singleton] at hr
    subst hr
    exact State.long_setLong_self ..
  have noStep (src dst : Addr) (i : Instr) (meaning : exec i s = finish 6 (copy16 src dst s)) :
      CopiesSixteen s i src dst [] 6 := by
    refine copiesSixteen_of_meaning id (meaning.trans ?_) (fun t => Frame.refl _ _ t) (fun _ => rfl) (fun _ => rfl)
      (fun _ _ h => (by cases h))
    cases copy16 src dst s <;> rfl
  refine ⟨fun ne => ?piPi, ?same, onlyStep _ _ _ rfl, onlyStep _ _ _ rfl, noStep _ _ _ rfl, noStep _ _ _ rfl⟩
  case same => exact if_pos rfl
  case piPi =>
    have apart : RegName.a ax ≠ .a ay := fun e => ne (RegName.a.inj e)
    refine copiesSixteen_of_meaning (fun t => bump16 ay (s.long (.a ay)) (bump16 ax (s.long (.a ax)) t)) (if_neg ne)
      (fun t => (bump16_frame ax _ t).trans (bump16_frame ay _ _)) (by simp [bump16]) (by simp [bump16]) fun t r hr => ?_
    obtain ⟨first, second, -⟩ := setLong_setLong_spec t apart (s.long (.a ax) + 16) (s.long (.a ay) + 16)
    simp only [List.mem_cons, List.not_mem_nil, or_false] at hr
    obtain rfl | rfl := hr
    · exact first
    · exact second

/-! ### Operations that do not look at `pc` -/

theorem andThen_assoc {α β γ : Type} (x : Res α) (f : α → Res β) (g : β → Res γ) :
    andThen (andThen x f) g = andThen x fun a => andThen (f a) g := by
  cases x <;> rfl

/-- The operation does the same whatever `pc` is, and leaves it (rule R29). -/
def PcFree (g : State → Res State) : Prop := ∀ s a, g (s.setPc a) = andThen (g s) fun t => .next (t.setPc a)

/-- An instruction behind a BANK word of two bytes ends where it ends two bytes further without it (rule R139). -/
theorem PcFree.finish_shift {g : State → Res State} (h : PcFree g) (s : State) (n : Nat) :
    finish (2 + n) (g s) = finish n (g (s.setPc (s.pc + 2))) := by
  rw [h s (s.pc + 2)]
  have same := h s s.pc
  rw [show s.setPc s.pc = s from rfl] at same
  cases done : g s with
  | next u =>
    rw [done] at same
    have unmoved : u = u.setPc s.pc := Host.Outcome.next.inj same
    have pc : u.pc = s.pc := (congrArg State.pc unmoved :)
    refine congrArg Host.Outcome.next ?_
    rw [State.advance, State.advance, pc, BitVec.ofNat_add, ← BitVec.add_assoc]
    rfl
  | fault f => rfl
  | refused r => rfl

theorem setReg_setPc (s : State) (a : Addr) (r : RegName) (v : Reg64) : (s.setPc a).setReg r v = (s.setReg r v).setPc a := by
  cases r <;> rfl

theorem setLong_setPc (s : State) (a : Addr) (r : RegName) (v : Long) : (s.setPc a).setLong r v = (s.setLong r v).setPc a := by
  have after : (s.setPc a).afterUpper = s.afterUpper.setPc a := by
    unfold State.afterUpper
    simp only [State.setPc_cfg]
    cases s.cfg.upper32 <;> rfl
  rw [State.setLong, after, setReg_setPc]
  rfl

theorem setPart_setPc (sz : Size) (s : State) (a : Addr) (r : RegName) (v : QWord) :
    (s.setPc a).setPart sz r v = (s.setPart sz r v).setPc a := by
  cases sz with
  | q => exact setReg_setPc ..
  | _ => exact setLong_setPc ..

theorem drawnIf_setPc (s : State) (a : Addr) (p : Bool) : (s.setPc a).drawnIf p = (s.drawnIf p).setPc a := by
  cases p <;> rfl

theorem setFp_setPc (s : State) (a : Addr) (k : Reg5) (x : QWord) : (s.setPc a).setFp k x = (s.setFp k x).setPc a := by
  have put (t : State) (y : QWord) : (t.setPc a).putFp k y = (t.putFp k y).setPc a := by
    unfold State.putFp
    split
    · rfl
    · exact setReg_setPc ..
  have after : (s.setPc a).afterKept = s.afterKept.setPc a := by
    unfold State.afterKept
    simp only [State.setPc_cfg]
    cases s.cfg.fpFraction <;> rfl
  rw [State.setFp, after, put]
  rfl

theorem loadFp_setPc (fmt : FpFmt) (rp : RoundPrec) (k : Reg5) (v : QWord) (t : State) (a : Addr) :
    loadFp fmt rp k v (t.setPc a) = (loadFp fmt rp k v t).setPc a := by
  rw [loadFp, drawnIf_setPc, setFp_setPc]
  rfl

theorem locate_setPc (sz : Size) (ext : Addr) (xx : BitVec 2) (ea : Ea) (s : State) (a : Addr) :
    locate sz ext xx ea (s.setPc a) = ⟨(locate sz ext xx ea s).loc, (locate sz ext xx ea s).st.setPc a⟩ := by
  cases ea with
  | postinc n => exact congrArg (Located.mk _) (setLong_setPc ..)
  | predec n => exact congrArg (Located.mk _) (setLong_setPc ..)
  | _ => rfl

theorem readLoc_setPc (sz : Size) (l : Loc) (s : State) (a : Addr) : readLoc sz ⟨l, s.setPc a⟩ = readLoc sz ⟨l, s⟩ := by
  cases l with
  | mem x =>
    simp only [readLoc, readMem, accessCheck, show (s.setPc a).inData = s.inData from rfl]
    cases (span x sz.bytes).find? fun y => !s.inData y <;> rfl
  | _ => rfl

theorem writeLoc_setPc (sz : Size) (l : Loc) (s : State) (v : QWord) (a : Addr) :
    writeLoc sz ⟨l, s.setPc a⟩ v = andThen (writeLoc sz ⟨l, s⟩ v) fun t => .next (t.setPc a) := by
  cases l with
  | reg r => exact congrArg Host.Outcome.next (setPart_setPc ..)
  | imm w => rfl
  | mem x =>
    simp only [writeLoc, writeMem, storeBytes, accessCheck, show (s.setPc a).inText = s.inText from rfl,
      show (s.setPc a).inData = s.inData from rfl]
    cases (written x ((bytesOf sz v).map some)).find? s.inText with
    | some y => rfl
    | none => cases (written x ((bytesOf sz v).map some)).find? fun y => !s.inData y <;> rfl

/-- A bundle with zero fields, around an instruction of `own` bytes before its extension words, does what the instruction
does two bytes further. -/
theorem shifts_of_pcFree {f : Prefix → State → Res State} (own k : Nat) (g : Addr → State → Res State)
    (free : ∀ e, PcFree (g e))
    (meaning : ∀ n s, f ⟨n, 0, 0⟩ s = finish (n + own + k) (g (s.pc + BitVec.ofNat 32 (n + own)) s)) (s : State) :
    f ⟨2, 0, 0⟩ s = f .none (s.setPc (s.pc + 2)) := by
  rw [meaning, Prefix.none, meaning, Nat.add_assoc 2, (free _).finish_shift, State.setPc_pc, BitVec.ofNat_add,
    ← BitVec.add_assoc, Nat.zero_add]
  rfl

theorem moveLong_shift (own : Nat) (v : Long) (ea : Ea) (s : State) :
    moveLong own ⟨2, 0, 0⟩ v ea s = moveLong own .none v ea (s.setPc (s.pc + 2)) := by
  refine shifts_of_pcFree (f := fun p s => moveLong own p v ea s) own (eaBytes .l ea) (fun e s => andThen (writeLoc .l (locate .l e 0 ea s) (zext v)) fun t =>
    .next (t.setSr (s.sr.movedLong v))) (fun e s a => ?_) (fun _ _ => rfl) s
  simp only [locate_setPc, writeLoc_setPc, andThen_assoc, andThen_next]
  rfl

theorem clear_shift (sz : Size) (ea : Ea) (s : State) :
    clear sz ⟨2, 0, 0⟩ ea s = clear sz .none ea (s.setPc (s.pc + 2)) := by
  refine shifts_of_pcFree (f := fun p s => clear sz p ea s) 2 (eaBytes sz ea)
    (fun e s => andThen (writeLoc sz (locate sz e 0 ea s) 0) fun t => .next (t.setSr (s.sr.moved false true)))
    (fun e s a => ?_) (fun _ _ => rfl) s
  simp only [locate_setPc, writeLoc_setPc, andThen_assoc, andThen_next]
  rfl

theorem extendUnsigned_shift (sz : Size) (dn : Reg3) (s : State) :
    extendUnsigned sz ⟨2, 0, 0⟩ dn s = extendUnsigned sz .none dn (s.setPc (s.pc + 2)) := by
  refine shifts_of_pcFree (f := fun p s => extendUnsigned sz p dn s) 2 0
    (fun _ s => let r := low32 (lowBytes sz (s.quad (.d (banked 0 dn))))
      .next ((s.setLong (.d (banked 0 dn)) r).setSr (s.sr.moved false (r == 0))))
    (fun e s a => ?_) (fun _ _ => rfl) s
  simp only [setLong_setPc, andThen_next]
  rfl

theorem permute_shift (a b : Reg4) (p0 p1 p2 p3 : BitVec 3) (s : State) :
    permute ⟨2, 0, 0⟩ a b p0 p1 p2 p3 s = permute .none a b p0 p1 p2 p3 (s.setPc (s.pc + 2)) := by
  refine shifts_of_pcFree (f := fun p s => permute p a b p0 p1 p2 p3 s) 4 0
    (fun _ s => .next (s.setLong (rn4 b) (permLong (s.long (rn4 a)) (s.long (rn4 b)) p0 p1 p2 p3)))
    (fun e s a => ?_) (fun _ _ => rfl) s
  simp only [setLong_setPc, andThen_next]
  rfl

theorem moveToB_shift (ea : Ea) (bn : Reg3) (s : State) :
    moveToB ⟨2, 0, 0⟩ ea bn s = moveToB .none ea bn (s.setPc (s.pc + 2)) := by
  refine shifts_of_pcFree (f := fun p s => moveToB p ea bn s) 2 (eaBytes .l ea)
    (fun e s => andThen (readLoc .l (locate .l e 0 ea s)) fun v =>
      .next ((locate .l e 0 ea s).st.setLong (.b bn) (low32 v)))
    (fun e s a => ?_) (fun _ _ => rfl) s
  simp only [locate_setPc, readLoc_setPc, andThen_assoc, setLong_setPc, andThen_next]

theorem fmoveIn_shift (fmt : FpFmt) (rp : RoundPrec) (ea : Ea) (fp : Reg3) (s : State) :
    fmoveIn ⟨2, 0, 0⟩ fmt rp ea fp s = fmoveIn .none fmt rp ea fp (s.setPc (s.pc + 2)) := by
  refine congrArg (fpuOn s) (shifts_of_pcFree
    (f := fun p s => finish (p.bytes + 4 + eaBytes fmt.size ea) <|
      andThen (readLoc fmt.size (locate fmt.size (s.pc + BitVec.ofNat 32 (p.bytes + 4)) p.aa ea s)) fun v =>
        .next (loadFp fmt rp (banked p.bb fp) v (locate fmt.size (s.pc + BitVec.ofNat 32 (p.bytes + 4)) p.aa ea s).st))
    4 (eaBytes fmt.size ea)
    (fun e s => andThen (readLoc fmt.size (locate fmt.size e 0 ea s)) fun v =>
      .next (loadFp fmt rp (banked 0 fp) v (locate fmt.size e 0 ea s).st))
    (fun e s a => ?_) (fun _ _ => rfl) s)
  simp only [locate_setPc, readLoc_setPc, andThen_assoc, loadFp_setPc, andThen_next]

/-- `fmoveOut` with the address of the first extension word given, when no field extends a register. -/
def fmoveOutAt (value : QWord → QWord → QWord) (draws : QWord → Bool) (fmt : FpFmt) (fp : Reg3) (ea : Ea) (e : Addr)
    (s : State) : Res State :=
  let x := s.fp (banked 0 fp)
  let l := locate fmt.size e 0 ea s
  andThen (writeLoc fmt.size ⟨l.loc, l.st.drawnIf (draws x)⟩ (value x l.st.free)) fun t => .next (t.setFpcc (fpccOf x))

theorem fmoveOutAt_pcFree (value : QWord → QWord → QWord) (draws : QWord → Bool) (fmt : FpFmt) (fp : Reg3) (ea : Ea)
    (e : Addr) : PcFree (fmoveOutAt value draws fmt fp ea e) := by
  intro s a
  simp only [fmoveOutAt, show (s.setPc a).fp = s.fp from rfl, locate_setPc, drawnIf_setPc, writeLoc_setPc, andThen_assoc,
    andThen_next]
  rfl

theorem fmoveOut_shift (value : QWord → QWord → QWord) (draws : QWord → Bool) (fmt : FpFmt) (fp : Reg3) (ea : Ea)
    (s : State) :
    fmoveOut value draws ⟨2, 0, 0⟩ fmt fp ea s = fmoveOut value draws .none fmt fp ea (s.setPc (s.pc + 2)) :=
  congrArg (fpuOn s) (shifts_of_pcFree
    (f := fun p s => finish (p.bytes + 4 + eaBytes fmt.size ea)
      (fmoveOutAt value draws fmt fp ea (s.pc + BitVec.ofNat 32 (p.bytes + 4)) s))
    4 (eaBytes fmt.size ea) _ (fmoveOutAt_pcFree value draws fmt fp ea) (fun _ _ => rfl) s)

/-- MOVIW.L raises LineA or runs, as the apollo-bit is, which no BANK word changes (rules R130, R201). -/
theorem moveImmWord_shift (imm : Word) (ea : Ea) (s t : State) :
    moveImmWord ⟨2, 0, 0⟩ imm ea s = .next t ↔ moveImmWord .none imm ea (s.setPc (s.pc + 2)) = .next t := by
  rw [moveImmWord, moveImmWord, lineA, lineA, State.setPc_sr, moveLong_shift]
  cases s.sr.apollo with
  | true => exact Iff.rfl
  | false => exact ⟨fun h => (by cases h), fun h => (by cases h)⟩

/-- What FMOVERZ and FMOVEURZ write of a register, and whether that is a free value (rules R329, R330). -/
def truncated (trunc : Size → QWord → Option Int) (fmt : FpFmt) (x free : QWord) : QWord := intOr (trunc fmt.size x) free

def noInteger (trunc : Size → QWord → Option Int) (fmt : FpFmt) (x : QWord) : Bool := (trunc fmt.size x).isNone

theorem same_next {x y : Res State} {t : State} (h : x = y) : x = .next t ↔ y = .next t := by rw [h]

/-- Settles O42. -/
theorem bankWithZeroFieldsIsTheInnerInstruction : Obligations.BankWithZeroFieldsIsTheInnerInstruction := by
  unfold Obligations.BankWithZeroFieldsIsTheInnerInstruction
  intro p inner s t admitted aa bb
  obtain ⟨fields, -⟩ := bankFields_of_wellFormed admitted
  rw [exec_bank_admitted admitted, Prefix.ofBank, aa, bb]
  cases inner with
  | moviw imm ea => exact moveImmWord_shift imm ea s t
  | clrB ea => exact same_next (clear_shift .b ea s)
  | clrW ea => exact same_next (clear_shift .w ea s)
  | clrL ea => exact same_next (clear_shift .l ea s)
  | extub dn => exact same_next (extendUnsigned_shift .b dn s)
  | extuw dn => exact same_next (extendUnsigned_shift .w dn s)
  | perm a b p0 p1 p2 p3 => exact same_next (permute_shift a b p0 p1 p2 p3 s)
  | moveBnEa bn ea => exact same_next (moveLong_shift 2 _ ea s)
  | moveaEaBn ea bn => exact same_next (moveToB_shift ea bn s)
  | fmoveEaFp fmt rp ea fp => exact same_next (fmoveIn_shift fmt rp ea fp s)
  | fmoveFpEa fmt fp ea => exact same_next (fmoveOut_shift (storedValue fmt) (storeDraws fmt) fmt fp ea s)
  | fmoverz fmt fp ea => exact same_next (fmoveOut_shift (truncated signedTrunc fmt) (noInteger signedTrunc fmt) fmt fp ea s)
  | fmoveurz fmt fp ea =>
    exact same_next (fmoveOut_shift (truncated unsignedTrunc fmt) (noInteger unsignedTrunc fmt) fmt fp ea s)
  | _ => cases fields

/-! ### BANK with other fields -/

/-- A bundle that writes a register's long, then SR, and steps `pc` past its `n` bytes (rules R139, R140). -/
theorem writesLong_of_bundle {p : BankPrefix} {i : Instr} {s : State} {r : RegName} {v : Long} {sr : StatusReg} {n : Nat}
    (meaning : execInner (.ofBank p) i s = .next (((s.setLong r v).setSr sr).advance n))
    (admitted : (Instr.bank p i).wellFormed s.cfg = true) : WritesLong (.bank p i) s ⟨.imm 0, s⟩ [] r v sr n :=
  (formed_none s 0).writesLong ((exec_bank_admitted admitted).trans meaning)

/-- A long moved to a data register by an instruction of `own` bytes (rules R140, R172, R201). -/
theorem moveLong_dn (own : Nat) (p : Prefix) (v : Long) (dn : Reg3) (s : State) :
    moveLong own p v (.dn dn) s =
      .next (((s.setLong (.d (banked p.bb dn)) v).setSr (s.sr.movedLong v)).advance (p.bytes + own)) := by
  have same : (zext v).extractLsb' 0 32 = v := by simp [zext, ← BitVec.setWidth_eq_extractLsb']
  exact congrArg (fun x => Host.Outcome.next (((s.setLong (.d (banked p.bb dn)) x).setSr (s.sr.movedLong v)).advance
    (p.bytes + own))) same

/-- Settles O43. -/
theorem bankExtendsRegisterOperands : Obligations.BankExtendsRegisterOperands := by
  unfold Obligations.BankExtendsRegisterOperands
  intro p s dn bn d low8 low16 flags gives
  refine ⟨fun i refused => ?refused, fun admitted => ?extub, fun admitted => ?extuw, fun admitted => ?clrB,
    fun admitted => ?clrW, fun admitted => ?clrL, fun imm on admitted => ?moviw, fun admitted => ?moveFromB,
    fun admitted => ?moveToB, ?perm⟩
  case refused =>
    rw [show exec _ s = execBank p i s from rfl, execBank, formRefusal]
    cases complaint : (Instr.bank p i).complaint s.cfg with
    | none => simp [Instr.wellFormed, complaint] at refused
    | some x => exact ⟨x, rfl⟩
  case extub =>
    exact writesLong_of_extendUnsigned _ .b (.ofBank p) dn s _ _ (exec_bank_admitted admitted) (low32_lowByte s _)
  case extuw =>
    exact writesLong_of_extendUnsigned _ .w (.ofBank p) dn s _ _ (exec_bank_admitted admitted) (low32_lowWord s _)
  case clrB => exact writesLong_of_bundle rfl admitted
  case clrW => exact writesLong_of_bundle rfl admitted
  case clrL => exact writesLong_of_bundle rfl admitted
  case moviw =>
    exact writesLong_of_bundle ((lineA_on on _).trans (moveLong_dn 4 (.ofBank p) (imm.signExtend 32) dn s)) admitted
  case moveFromB => exact writesLong_of_bundle (moveLong_dn 2 (.ofBank p) (s.long (.b bn)) dn s) admitted
  case moveToB =>
    have source : (lowBytes .l (s.quad (.d (p.aa ++ dn)))).setWidth 32 = s.long (.d (p.aa ++ dn)) := by
      rw [lowBytes, quad_low_bits s _ 32 (by omega)]
      simp
    have meaning := moveToB_eq (.ofBank p) (.dn dn) bn s (fun _ h => (by cases h))
    exact (formed_none s 0).loadsLong ((exec_bank_admitted admitted).trans (meaning.trans
      (congrArg (fun v => Host.Outcome.next ((s.setLong (.b bn) v).advance 4)) source)))
  case perm =>
    intro a b p0 p1 p2 p3 ra rb pick admitted
    refine (formed_none s 0).loadsLong ((exec_bank_admitted admitted).trans ?_)
    simp only [pick, ← permByte_eq]
    rfl

end Sys2Proof.Machine
end

section
/-!
PROOF. PADD, PSUB, PCMP, PAVGB and PMULA (rules R244 to R262, R285, R289 to R292), the loads (rules R233, R234) and the
instructions with a pair as destination (rules R226, R227, R303 to R306).
-/

namespace Sys2Proof.Machine

/-! ### Saturations and masks of a lane -/

theorem toNat_satU8 (v : Int) : ((satU8 v).toNat : Int) = max 0 (min 255 v) := by
  unfold satU8
  split
  · simp; omega
  · split
    · simp; omega
    · rw [BitVec.toNat_ofInt]
      omega

theorem toNat_satU16 (v : Int) : ((satU16 v).toNat : Int) = max 0 (min 65535 v) := by
  unfold satU16
  split
  · simp; omega
  · split
    · simp; omega
    · rw [BitVec.toNat_ofInt]
      omega

/-- The saturated sum of two lanes (rules R10, R246, R247). -/
theorem toNat_satU8_add (x y : Nat) : (satU8 ((x + y : Nat) : Int)).toNat = min (x + y) 255 := by
  have := toNat_satU8 ((x + y : Nat) : Int)
  omega

theorem toNat_satU16_add (x y : Nat) : (satU16 ((x + y : Nat) : Int)).toNat = min (x + y) 65535 := by
  have := toNat_satU16 ((x + y : Nat) : Int)
  omega

/-- The saturated difference of two lanes (rules R10, R291, R292). -/
theorem toNat_satU8_sub (x y : Byte) : (satU8 ((y.toNat : Int) - x.toNat)).toNat = y.toNat - x.toNat := by
  have := toNat_satU8 ((y.toNat : Int) - x.toNat)
  omega

theorem toNat_satU16_sub (x y : Word) : (satU16 ((y.toNat : Int) - x.toNat)).toNat = y.toNat - x.toNat := by
  have := toNat_satU16 ((y.toNat : Int) - x.toNat)
  omega

theorem toNat_sub_byte (x y : Byte) : (y - x).toNat = (y.toNat + (256 - x.toNat)) % 256 := by
  rw [BitVec.toNat_sub, Nat.add_comm]

theorem toNat_sub_word (x y : Word) : (y - x).toNat = (y.toNat + (65536 - x.toNat)) % 65536 := by
  rw [BitVec.toNat_sub, Nat.add_comm]

theorem maskB_decide (p : Prop) [Decidable p] : maskB (decide p) = if p then 0xFF else 0 := by
  by_cases h : p <;> simp [maskB, h]

theorem maskW_decide (p : Prop) [Decidable p] : maskW (decide p) = if p then 0xFFFF else 0 := by
  by_cases h : p <;> simp [maskW, h]

/-! ### PADD, PSUB and PCMP -/

/-- Settles O44. -/
theorem paddAndPsubWorkLaneByLane : Obligations.PaddAndPsubWorkLaneByLane := by
  unfold Obligations.PaddAndPsubWorkLaneByLane
  intro vea b d
  refine ⟨?paddb, ?paddw, ?paddusb, ?paddusw, ?psubb, ?psubw, ?psubusb, ?psubusw, ?_, ?_, ?_, ?_, ?_, ?_, ?_, ?_⟩
  case paddb => exact ammxTo_of_zipB _ (fun x y => x + y) vea b d _ (fun _ => rfl) BitVec.toNat_add
  case paddw => exact ammxTo_of_zipW _ (fun x y => x + y) vea b d _ (fun _ => rfl) BitVec.toNat_add
  case paddusb =>
    exact ammxTo_of_zipB _ (fun x y => satU8 ((x.toNat + y.toNat : Nat) : Int)) vea b d _ (fun _ => rfl)
      fun x y => toNat_satU8_add x.toNat y.toNat
  case paddusw =>
    exact ammxTo_of_zipW _ (fun x y => satU16 ((x.toNat + y.toNat : Nat) : Int)) vea b d _ (fun _ => rfl)
      fun x y => toNat_satU16_add x.toNat y.toNat
  case psubb => exact ammxTo_of_zipB _ (fun x y => y - x) vea b d _ (fun _ => rfl) toNat_sub_byte
  case psubw => exact ammxTo_of_zipW _ (fun x y => y - x) vea b d _ (fun _ => rfl) toNat_sub_word
  case psubusb =>
    exact ammxTo_of_zipB _ (fun x y => satU8 ((y.toNat : Int) - x.toNat)) vea b d _ (fun _ => rfl) toNat_satU8_sub
  case psubusw =>
    exact ammxTo_of_zipW _ (fun x y => satU16 ((y.toNat : Int) - x.toNat)) vea b d _ (fun _ => rfl) toNat_satU16_sub
  all_goals exact ammxWords_of_veaInstr _ _ vea b d (by decide) (by decide) rfl

/-- Settles O45. -/
theorem pcmpWritesAMaskInEachLane : Obligations.PcmpWritesAMaskInEachLane := by
  unfold Obligations.PcmpWritesAMaskInEachLane
  intro vea b d
  refine ⟨?eqb, ?hib, ?geb, ?gtb, ?eqw, ?hiw, ?gew, ?gtw, ?_, ?_, ?_, ?_, ?_, ?_, ?_, ?_⟩
  case eqb => exact ammxTo_of_zipB _ (fun x y => maskB (y == x)) vea b d _ (fun _ => rfl) fun x y => maskB_decide _
  case hib =>
    exact ammxTo_of_zipB _ (fun x y => maskB (decide (x.toNat < y.toNat))) vea b d _ (fun _ => rfl) fun x y => maskB_decide _
  case geb =>
    exact ammxTo_of_zipB _ (fun x y => maskB (decide (x.toInt ≤ y.toInt))) vea b d _ (fun _ => rfl) fun x y => maskB_decide _
  case gtb =>
    exact ammxTo_of_zipB _ (fun x y => maskB (decide (x.toInt < y.toInt))) vea b d _ (fun _ => rfl) fun x y => maskB_decide _
  case eqw => exact ammxTo_of_zipW _ (fun x y => maskW (y == x)) vea b d _ (fun _ => rfl) fun x y => maskW_decide _
  case hiw =>
    exact ammxTo_of_zipW _ (fun x y => maskW (decide (x.toNat < y.toNat))) vea b d _ (fun _ => rfl) fun x y => maskW_decide _
  case gew =>
    exact ammxTo_of_zipW _ (fun x y => maskW (decide (x.toInt ≤ y.toInt))) vea b d _ (fun _ => rfl) fun x y => maskW_decide _
  case gtw =>
    exact ammxTo_of_zipW _ (fun x y => maskW (decide (x.toInt < y.toInt))) vea b d _ (fun _ => rfl) fun x y => maskW_decide _
  all_goals exact ammxWords_of_veaInstr _ _ vea b d (by decide) (by decide) rfl

/-! ### PAVGB and PMULA -/

theorem toNat_avgB (x y : Byte) : (avgB x y).toNat = (x.toNat + y.toNat + 1) / 2 := by
  rw [avgB, BitVec.toNat_ofNat]
  omega

/-- The long lanes of a vector built of longs (rule R221). -/
theorem laneL_ofLongs (f : Nat → Long) (i : Nat) (hi : i < 2) : laneL (ofLongs f) i = f i := by
  interval_cases i
  all_goals
    simp (disch := omega) [laneL, ofLongs, BitVec.extractLsb'_append_eq_of_le,
      BitVec.extractLsb'_append_eq_of_add_le, -Nat.reduceAdd]

/-- Byte `c` of long lane `i` is byte lane `4i + c` (rule R221). -/
theorem laneB_eq_laneL (x : QWord) (i c : Nat) (hi : i < 2) (hc : c < 4) :
    laneB x (4 * i + c) = (laneL x i).extractLsb' (24 - 8 * c) 8 := by
  apply BitVec.eq_of_getLsbD_eq
  intro k hk
  simp only [laneB, laneL, BitVec.getLsbD_extractLsb', hk, decide_true, Bool.true_and,
    decide_eq_true (show 24 - 8 * c + k < 32 by omega)]
  congr 1
  omega

/-- One colour of PMULA (rule R285). -/
theorem toNat_fade (al p q : Byte) :
    (fade al p q).toNat = if al.toNat = 255 then q.toNat else min (al.toNat * q.toNat / 256 + p.toNat) 255 := by
  have full : (al = 0xFF) ↔ al.toNat = 255 := by
    constructor <;> intro h
    · rw [h]; rfl
    · exact BitVec.eq_of_toNat_eq h
  unfold fade
  by_cases h : al = 0xFF
  · rw [if_pos h, if_pos (full.mp h)]
  · rw [if_neg h, if_neg fun e => h (full.mpr e), toNat_satU8_add]

/-- The bytes of PMULA's pixel: 0 and the three colours (rule R285). -/
theorem fadePixel_bytes (p q : Long) :
    (fadePixel p q).extractLsb' 24 8 = 0#8 ∧ ∀ c, 1 ≤ c → c < 4 →
      (fadePixel p q).extractLsb' (24 - 8 * c) 8 =
        fade (p.extractLsb' 24 8) (p.extractLsb' (24 - 8 * c) 8) (q.extractLsb' (24 - 8 * c) 8) := by
  refine ⟨?_, fun c h1 h4 => ?_⟩
  · simp (disch := omega) [fadePixel, BitVec.extractLsb'_append_eq_of_le, -Nat.reduceAdd]
  · interval_cases c
    all_goals
      simp (disch := omega) [fadePixel, BitVec.extractLsb'_append_eq_of_le, BitVec.extractLsb'_append_eq_of_add_le,
        -Nat.reduceAdd]

/-- Settles O48: each pixel of PMULA is `fadePixel` of the pixels of the operands. -/
theorem pmulaBlendsAndPavgbAverages : Obligations.PmulaBlendsAndPavgbAverages := by
  unfold Obligations.PmulaBlendsAndPavgbAverages
  intro vea b d
  refine ⟨?pavgb, ?_, ?_, ?pmula⟩
  case pavgb => exact ammxTo_of_zipB _ avgB vea b d _ (fun _ => rfl) toNat_avgB
  case pmula =>
    refine ammxTo_of_classL _ pmulaVec vea b d _ (fun _ => rfl) fun x y i hi => ?_
    have lane : laneL (pmulaVec x y) i = fadePixel (laneL x i) (laneL y i) := laneL_ofLongs _ i hi
    obtain ⟨top, colours⟩ := fadePixel_bytes (laneL x i) (laneL y i)
    have first (v : QWord) : laneB v (4 * i) = (laneL v i).extractLsb' 24 8 := laneB_eq_laneL v i 0 hi (by omega)
    refine ⟨by rw [first, lane, top]; rfl, fun c h1 h4 => ?_⟩
    simp only [laneB_eq_laneL _ i c hi h4, first, lane, colours c h1 h4, toNat_fade]
  all_goals exact ammxWords_of_veaInstr _ _ vea b d (by decide) (by decide) rfl

/-! ### LOAD and LOADI -/

/-- The register a value of six bits selects (rule R27). -/
theorem r6_eq_sixBitReg (q : QWord) : r6 (q.extractLsb' 0 6) = sixBitReg (q.toNat % 64) := by
  have all : ∀ v : BitVec 6, r6 v = sixBitReg v.toNat := by decide
  rw [all, BitVec.extractLsb'_toNat, Nat.shiftRight_zero]

/-- LOADI of a readable operand, into the register its index names (rule R234). -/
theorem exec_loadi (vea : Vea) (d : Reg5) (s : State) (r : RegName) (index : sixBitReg ((s.quad (.d d)).toNat % 64) = some r)
    (readable : Readable ((veaAt vea s).loc.addrs .q) s) :
    exec (.loadi vea d) s =
      .next (((veaAt vea s).st.setQuad r ((veaAt vea s).loc.value .q s)).advance (ammxBytes vea)) := by
  rw [show exec _ s = execLoadi vea d s from rfl, execLoadi, r6_eq_sixBitReg, index]
  simp only [(formed_veaAt vea s).readLoc readable, andThen_next]
  rfl

/-- Settles O51. -/
theorem loadAndLoadiLoadTheOperand : Obligations.LoadAndLoadiLoadTheOperand := by
  unfold Obligations.LoadAndLoadiLoadTheOperand
  intro vea d
  refine ⟨ammxTo_of_classL _ (fun x _ => x) vea 0 d _ (exec_load vea d) fun _ _ => rfl,
    ammxWords_of_veaInstr _ _ vea 0 d (by decide) (by decide) rfl,
    ammxWords_of_veaInstr _ _ vea 1 d (by decide) (by decide) rfl, fun s => ⟨fun r index readable => ?loaded,
      fun unassigned => ?refused⟩⟩
  case loaded =>
    have formed := formed_veaAt vea s
    refine ⟨_, exec_loadi vea d s r index readable, State.quad_setQuad_self .., by simp [formed.sr],
      by simp [formed.pc, ammxBytes], ?_, fun x _ ne => congrArg Reg64.lo (State.reg_setQuad_ne _ r x _ ne)⟩
    exact ((formed.frame.trans (frame_setQuad _ r _)).advance _).mono (by simp [or_comm]) (by simp)
  case refused => rw [show exec _ s = execLoadi vea d s from rfl, execLoadi, r6_eq_sixBitReg, unassigned]

/-! ### Pairs of registers -/

theorem pair_ne : ∀ d : Reg5, RegName.d (d + 1) ≠ .d d := by decide

/-- Two quads written to a pair are there, and nothing else has changed (rule R222). -/
theorem setQuad_pair_spec (s : State) (d : Reg5) (v w : QWord) :
    let t := (s.setQuad (.d d) v).setQuad (.d (d + 1)) w
    t.quad (.d d) = v ∧ t.quad (.d (d + 1)) = w ∧ Frame [.d d, .d (d + 1)] [] s t := by
  refine ⟨?_, State.quad_setQuad_self .., (frame_setQuad s _ v).trans (frame_setQuad _ _ w)⟩
  exact (congrArg Reg64.quad (State.reg_setQuad_ne _ _ _ w (pair_ne d).symm)).trans (State.quad_setQuad_self s (.d d) v)

/-- An instruction whose meaning is a class L operation on a pair writes both functions of its operands and nothing else
(rules R105, R222). -/
theorem ammxToPair_of_classLPair (i : Instr) (f g : QWord → QWord → QWord) (vea : Vea) (b d : Reg5)
    (P Q : QWord → QWord → QWord → Prop) (meaning : ∀ s, exec i s = classLPair f g vea b d s)
    (first : ∀ x y, P x y (f x y)) (second : ∀ x y, Q x y (g x y)) : AmmxToPair i vea b d P Q := by
  intro s _ readable
  have formed := formed_veaAt vea s
  have done := meaning s
  rw [classLPair, formed.readLoc readable, andThen_next, veaAt_quad_data] at done
  obtain ⟨v, w, frame⟩ := setQuad_pair_spec (veaAt vea s).st d (f ((veaAt vea s).loc.value .q s) (s.quad (.d b)))
    (g ((veaAt vea s).loc.value .q s) (s.quad (.d b)))
  refine ⟨_, done, ?_, ?_, by simp [formed.sr], by simp [formed.pc, ammxBytes], ?_, fun r hr => ?_⟩
  · rw [State.advance_quad, v]
    exact first _ _
  · rw [State.advance_quad, w]
    exact second _ _
  · exact ((formed.frame.trans frame).advance _).mono (by simp; tauto) (by simp)
  · refine congrArg Reg64.lo (frame.reg r ?_)
    simp only [List.mem_cons, List.not_mem_nil, or_false, not_or]
    exact ⟨fun e => data_notMem_steppedVea vea d (e ▸ hr), fun e => data_notMem_steppedVea vea (d + 1) (e ▸ hr)⟩

/-- A word widened to a pixel: alpha 0, and each colour filled up with its own top bits (rule R306, D24). -/
def Widened (w : Word) (p : Long) : Prop :=
  p.extractLsb' 24 8 = 0#8 ∧ p.extractLsb' 16 8 = w.extractLsb' 11 5 ++ w.extractLsb' 13 3 ∧
    p.extractLsb' 8 8 = w.extractLsb' 5 6 ++ w.extractLsb' 9 2 ∧ p.extractLsb' 0 8 = w.extractLsb' 0 5 ++ w.extractLsb' 2 3

theorem widened_unpack565 (w : Word) : Widened w (unpack565 w) := by
  refine ⟨?_, ?_, ?_, ?_⟩
  all_goals
    apply BitVec.eq_of_getLsbD_eq
    intro i hi
    simp only [unpack565, BitVec.getLsbD_extractLsb', BitVec.getLsbD_append]
    interval_cases i <;> simp

/-- The long lanes of two longs side by side (rule R221). -/
theorem laneL_append (x y : Long) : laneL (x ++ y) 0 = x ∧ laneL (x ++ y) 1 = y :=
  ⟨laneL_ofLongs (fun i => if i = 0 then x else y) 0 (by omega), laneL_ofLongs (fun i => if i = 0 then x else y) 1 (by omega)⟩

/-- The word lanes of a column are that lane of each source (rules R303, R304). -/
theorem laneW_column (i : Nat) (f : Nat → QWord) (k : Nat) (hk : k < 4) :
    laneW (column i (f 0) (f 1) (f 2) (f 3)) k = laneW (f k) i :=
  laneW_ofWords (fun k => laneW (f k) i) k hk

/-- TRANSHI and TRANSLO write two columns, taken before either register is written (rules R303, R304). -/
theorem transpose_spec {ins : Instr} {i j : Nat} {grp : BitVec 3} {d : Reg5} {s : State}
    (meaning : exec ins s = transpose i j grp d s) :
    let src (k : Nat) : QWord := s.quad (.d (grp ++ BitVec.ofNat 2 k))
    ∃ t, exec ins s = .next t ∧ t.sr = s.sr ∧ t.pc = s.pc + 4 ∧ Frame [.d d, .d (d + 1)] [] s t ∧
      ∀ k, k < 4 → laneW (t.quad (.d d)) k = laneW (src k) i ∧ laneW (t.quad (.d (d + 1))) k = laneW (src k) j := by
  intro src
  obtain ⟨v, w, frame⟩ := setQuad_pair_spec s d (column i (src 0) (src 1) (src 2) (src 3))
    (column j (src 0) (src 1) (src 2) (src 3))
  refine ⟨_, meaning, by simp, by simp, frame.advance 4, fun k hk => ⟨?_, ?_⟩⟩
  · rw [← laneW_column i src k hk, ← v]; rfl
  · rw [← laneW_column j src k hk, ← w]; rfl

/-- Settles O52. -/
theorem pairInstructionsWriteBothRegisters : Obligations.PairInstructionsWriteBothRegisters := by
  unfold Obligations.PairInstructionsWriteBothRegisters
  refine ⟨fun vea b d => ⟨?bflyb, ?bflyw, ?unpack, ?_, ?_, ?_⟩, fun grp d =>
    ⟨groupWords_of_groupInstr 0x02 grp d (by decide), groupWords_of_groupInstr 0x03 grp d (by decide)⟩,
    fun grp d s _ => ⟨transpose_spec rfl, transpose_spec rfl⟩⟩
  case bflyb =>
    refine ammxToPair_of_classLPair _ (zipB fun x y => y + x) (zipB fun x y => y - x) vea b d _ _ (fun _ => rfl)
      (fun x y k hk => ?_) (fun x y k hk => ?_)
    · rw [laneB_zipB _ x y k hk]; exact BitVec.toNat_add ..
    · rw [laneB_zipB _ x y k hk]; exact toNat_sub_byte ..
  case bflyw =>
    refine ammxToPair_of_classLPair _ (zipW fun x y => y + x) (zipW fun x y => y - x) vea b d _ _ (fun _ => rfl)
      (fun x y k hk => ?_) (fun x y k hk => ?_)
    · rw [laneW_zipW _ x y k hk]; exact BitVec.toNat_add ..
    · rw [laneW_zipW _ x y k hk]; exact toNat_sub_word ..
  case unpack =>
    have pair (u v : Word) : Widened u (laneL (unpack565 u ++ unpack565 v) 0) ∧
        Widened v (laneL (unpack565 u ++ unpack565 v) 1) := by
      obtain ⟨first, second⟩ := laneL_append (unpack565 u) (unpack565 v)
      rw [first, second]
      exact ⟨widened_unpack565 u, widened_unpack565 v⟩
    exact ammxToPair_of_classLPair _ (fun a _ => unpack565 (laneW a 0) ++ unpack565 (laneW a 1))
      (fun a _ => unpack565 (laneW a 2) ++ unpack565 (laneW a 3)) vea 0 d _ _ (fun _ => rfl)
      (fun x _ => pair (laneW x 0) (laneW x 1)) (fun x _ => pair (laneW x 2) (laneW x 3))
  all_goals exact ammxWords_of_veaInstr _ _ vea _ d (by decide) (by decide) rfl

end Sys2Proof.Machine
end

section
/-!
PROOF. Where the decoder answers STOREM3 (rule R296): only with an opcode byte that `STOREM3_OPCODE` gives, so that a
STOREM3 with a destination that cannot be written is refused for that destination.
-/

namespace Sys2Proof

open Decode

/-- The instruction, if the decoder answers one, has the property. -/
def Answers (P : Instr → Prop) (d : Decoded) : Prop := ∀ i rest, d = .ok i rest → P i

theorem answers_ok (P : Instr → Prop) (i : Instr) (rest : List Word) : Answers P (.ok i rest) ↔ P i := by
  simp [Answers]

theorem answers_reject (P : Instr → Prop) (r : Reject) : Answers P (.reject r) := by simp [Answers]

theorem answers_ite (P : Instr → Prop) (c : Prop) [Decidable c] (x y : Decoded) (hx : c → Answers P x)
    (hy : ¬ c → Answers P y) : Answers P (if c then x else y) := by
  split
  · exact hx ‹_›
  · exact hy ‹_›

section

variable {P : Instr → Prop}

theorem answers_withWord (ws : List Word) {k : Word → List Word → Decoded} (h : ∀ w ws, Answers P (k w ws)) :
    Answers P (withWord ws k) := by
  cases ws with
  | nil => exact answers_reject _ _
  | cons w ws => exact h w ws

theorem answers_withLong (ws : List Word) {k : Long → List Word → Decoded} (h : ∀ l ws, Answers P (k l ws)) :
    Answers P (withLong ws k) :=
  answers_withWord ws fun _ ws => answers_withWord ws fun _ ws => h _ ws

theorem answers_withQuad (ws : List Word) {k : QWord → List Word → Decoded} (h : ∀ q ws, Answers P (k q ws)) :
    Answers P (withQuad ws k) :=
  answers_withLong ws fun _ ws => answers_withLong ws fun _ ws => h _ ws

theorem answers_withBrief (ws : List Word) {k : Brief → List Word → Decoded} (h : ∀ e ws, Answers P (k e ws)) :
    Answers P (withBrief ws k) :=
  answers_withWord ws fun _ ws => answers_ite _ _ _ _ (fun _ => answers_reject _ _) fun _ => h _ ws

theorem answers_withBaseDisp (sz : BitVec 2) (ws : List Word) {k : FullDisp → List Word → Decoded}
    (h : ∀ d ws, Answers P (k d ws)) : Answers P (withBaseDisp sz ws k) := by
  unfold withBaseDisp
  split
  · exact h _ ws
  · split
    · exact answers_withWord ws fun _ ws => h _ ws
    · split
      · exact answers_withLong ws fun _ ws => h _ ws
      · exact answers_reject _ _

theorem answers_withOuter (iis : BitVec 3) (ws : List Word) {k : Indirection → List Word → Decoded}
    (h : ∀ d ws, Answers P (k d ws)) : Answers P (withOuter iis ws k) := by
  unfold withOuter
  split
  · exact h _ ws
  · split
    · exact answers_reject _ _
    · exact answers_withBaseDisp _ ws fun _ ws => h _ ws

theorem answers_withIndexExt (ws : List Word) {k : IndexExt → List Word → Decoded} (h : ∀ e ws, Answers P (k e ws)) :
    Answers P (withIndexExt ws k) := by
  refine answers_withWord ws fun w ws => answers_ite _ _ _ _ (fun _ => answers_ite _ _ _ _ (fun _ => ?_) fun _ => ?_)
    fun _ => h _ ws
  · exact answers_reject _ _
  · exact answers_withBaseDisp _ ws fun _ ws => answers_withOuter _ ws fun _ ws => h _ ws

theorem answers_withEa7 (sz : Size) (reg : Reg3) (ws : List Word) {k : Ea → List Word → Decoded}
    (h : ∀ ea ws, Answers P (k ea ws)) : Answers P (withEa7 sz reg ws k) := by
  unfold withEa7
  split
  · exact answers_withWord ws fun _ ws => h _ ws
  split
  · exact answers_withLong ws fun _ ws => h _ ws
  split
  · exact answers_withWord ws fun _ ws => h _ ws
  split
  · exact answers_withBrief ws fun _ ws => h _ ws
  split
  · cases sz with
    | b => exact answers_withWord ws fun _ ws => h _ ws
    | w => exact answers_withWord ws fun _ ws => h _ ws
    | l => exact answers_withLong ws fun _ ws => h _ ws
    | q => exact answers_withQuad ws fun _ ws => h _ ws
  · exact answers_reject _ _

theorem answers_withEa (sz : Size) (mode reg : Reg3) (ws : List Word) {k : Ea → List Word → Decoded}
    (h : ∀ ea ws, Answers P (k ea ws)) : Answers P (withEa sz mode reg ws k) := by
  unfold withEa
  split
  · exact h _ ws
  split
  · exact h _ ws
  split
  · exact h _ ws
  split
  · exact h _ ws
  split
  · exact h _ ws
  split
  · exact answers_withWord ws fun _ ws => h _ ws
  split
  · exact answers_withBrief ws fun _ ws => h _ ws
  · exact answers_withEa7 sz reg ws h

theorem answers_withVea7 (a : Bool) (reg : Reg3) (ws : List Word) {k : Vea → List Word → Decoded}
    (h : ∀ vea ws, Answers P (k vea ws)) : Answers P (withVea7 a reg ws k) := by
  unfold withVea7
  split
  · split
    · exact answers_withWord ws fun _ ws => h _ ws
    · exact answers_withQuad ws fun _ ws => h _ ws
  split
  · exact answers_reject _ _
  split
  · exact answers_withWord ws fun _ ws => h _ ws
  split
  · exact answers_withLong ws fun _ ws => h _ ws
  split
  · exact answers_withWord ws fun _ ws => h _ ws
  split
  · exact answers_withBrief ws fun _ ws => h _ ws
  · exact answers_reject _ _

theorem answers_withVea (a : Bool) (mode reg : Reg3) (ws : List Word) {k : Vea → List Word → Decoded}
    (h : ∀ vea ws, Answers P (k vea ws)) : Answers P (withVea a mode reg ws k) := by
  unfold withVea
  split
  · exact h _ ws
  split
  · exact h _ ws
  split
  · exact h _ ws
  split
  · exact h _ ws
  split
  · exact answers_withWord ws fun _ ws => h _ ws
  split
  · exact answers_withBrief ws fun _ ws => h _ ws
  · exact answers_withVea7 a reg ws h

theorem answers_withFmt (src : BitVec 3) {k : FpFmt → Decoded} (h : ∀ fmt, Answers P (k fmt)) :
    Answers P (withFmt src k) := by
  unfold withFmt
  split
  · exact h _
  split
  · exact h _
  split
  · exact h _
  split
  · exact h _
  split
  · exact h _
  · exact answers_reject _ _

theorem answers_withRp (op : BitVec 7) {k : RoundPrec → Decoded} (h : ∀ rp, Answers P (k rp)) :
    Answers P (withRp op k) := by
  unfold withRp
  split
  · exact h _
  split
  · exact h _
  split
  · exact h _
  · exact answers_reject _ _

end

/-- The instruction is STOREM3. -/
def isStorem3 : Instr → Bool
  | .storem3 _ _ _ _ => true
  | _ => false

/-- STOREM3 is answered only under a parameter that gives its opcode byte (rule R296). -/
def NeedsStorem3 (cfg : Config) (i : Instr) : Prop := isStorem3 i = true → cfg.storem3.isSome = true

theorem answers_other (cfg : Config) (i : Instr) (rest : List Word) (h : isStorem3 i = false) :
    Answers (NeedsStorem3 cfg) (.ok i rest) := by
  rw [answers_ok, NeedsStorem3, h]
  exact fun h => absurd h Bool.false_ne_true

theorem fpgen_needsStorem3 (cfg : Config) (w : Word) (ws : List Word) : Answers (NeedsStorem3 cfg) (fpgen w ws) := by
  refine answers_withWord ws fun w2 ws => answers_ite _ _ _ _ (fun _ => ?_) fun _ => answers_reject _ _
  refine answers_ite _ _ _ _ (fun _ => ?out) fun _ => ?into
  case out =>
    refine answers_ite _ _ _ _ (fun _ => ?_) fun _ => answers_ite _ _ _ _ (fun _ => ?_) fun _ =>
      answers_ite _ _ _ _ (fun _ => ?_) fun _ => answers_reject _ _
    all_goals exact answers_withFmt _ fun _ => answers_withEa _ _ _ ws fun _ _ => answers_other _ _ _ rfl
  case into =>
    exact answers_withRp _ fun _ => answers_withFmt _ fun _ => answers_withEa _ _ _ ws fun _ _ => answers_other _ _ _ rfl

theorem fdbcc_needsStorem3 (cfg : Config) (w : Word) (ws : List Word) : Answers (NeedsStorem3 cfg) (fdbcc w ws) :=
  answers_withWord ws fun _ ws => answers_withWord ws fun _ _ => answers_ite _ _ _ _
    (fun _ => answers_ite _ _ _ _ (fun _ => answers_other _ _ _ rfl) fun _ => answers_reject _ _) fun _ => answers_reject _ _

theorem move16_needsStorem3 (cfg : Config) (w : Word) (ws : List Word) : Answers (NeedsStorem3 cfg) (move16 cfg w ws) := by
  unfold move16
  split
  · exact answers_withLong ws fun _ _ => answers_other _ _ _ rfl
  split
  · exact answers_withLong ws fun _ _ => answers_other _ _ _ rfl
  split
  · cases cfg.f610Is with
    | move16 => exact answers_withLong ws fun _ _ => answers_other _ _ _ rfl
    | touch => exact answers_other _ _ _ rfl
    | refuse => exact answers_reject _ _
  split
  · exact answers_withLong ws fun _ _ => answers_other _ _ _ rfl
  split
  · exact answers_withWord ws fun _ _ => answers_ite _ _ _ _ (fun _ => answers_other _ _ _ rfl) fun _ => answers_reject _ _
  split
  · exact answers_withIndexExt ws fun _ _ => answers_other _ _ _ rfl
  · exact answers_reject _ _

/-- None of the assigned opcode bytes is STOREM3's. -/
theorem veaInstr_not_storem3 (op : Byte) (vea : Vea) (b d : Reg5) (i : Instr) (h : veaInstr op vea b d = .ok i) :
    isStorem3 i = false := by
  unfold veaInstr at h
  split at h
  case h_1 | h_2 =>
    split at h
    · cases h; rfl
    · split at h
      · cases h; rfl
      · cases h
  case h_25 | h_32 =>
    split at h
    · cases h; rfl
    · cases h
  all_goals
    cases h
  all_goals rfl

theorem ammx_needsStorem3 (cfg : Config) (w : Word) (ws : List Word) : Answers (NeedsStorem3 cfg) (ammx cfg w ws) := by
  refine answers_withWord ws fun w2 ws => ?_
  refine answers_ite _ _ _ _ (fun _ => ?vperm) fun _ => answers_ite _ _ _ _ (fun _ => ?tex) fun _ =>
    answers_ite _ _ _ _ (fun _ => answers_reject _ _) fun _ => answers_ite _ _ _ _ (fun _ => ?group) fun _ => ?vea
  case vperm =>
    exact answers_ite _ _ _ _ (fun _ => answers_withLong ws fun _ _ => answers_other _ _ _ rfl) fun _ => answers_reject _ _
  case tex =>
    exact answers_withWord ws fun _ _ => answers_ite _ _ _ _ (fun _ => answers_reject _ _) fun _ =>
      answers_ite _ _ _ _ (fun _ => answers_other _ _ _ rfl) fun _ => answers_ite _ _ _ _ (fun _ => answers_other _ _ _ rfl)
        fun _ => answers_reject _ _
  case group =>
    refine answers_ite _ _ _ _ (fun _ => answers_other _ _ _ ?_) fun _ => answers_reject _ _
    unfold groupInstr
    split
    · rfl
    · split <;> rfl
  case vea =>
    refine answers_withVea _ _ _ ws fun vea ws => answers_ite _ _ _ _ (fun given => ?storem3) fun _ => ?other
    case storem3 =>
      rw [answers_ok, NeedsStorem3, given.1]
      exact fun _ => rfl
    case other =>
      cases row : veaInstr (bits w2 0 8) vea (bits w 7 1 ++ bits w2 12 4) (bits w 6 1 ++ bits w2 8 4) with
      | ok i => exact answers_other _ _ _ (veaInstr_not_storem3 _ _ _ _ i row)
      | error r => exact answers_reject _ _

/-- Words of line 1111 answer STOREM3 only under a parameter that gives its opcode byte (rules R109, R296). -/
theorem decode_needsStorem3 (cfg : Config) (w : Word) (ws : List Word) (line : bits w 12 4 = 0xF#4) :
    Answers (NeedsStorem3 cfg) (decode cfg (w :: ws)) := by
  rw [decode_of_lineF cfg w ws line]
  refine answers_ite _ _ _ _ (fun _ => fpgen_needsStorem3 cfg w ws) fun _ => answers_ite _ _ _ _
    (fun _ => fdbcc_needsStorem3 cfg w ws) fun _ => answers_ite _ _ _ _ (fun _ => move16_needsStorem3 cfg w ws) fun _ =>
    answers_ite _ _ _ _ (fun _ => ammx_needsStorem3 cfg w ws) fun _ => answers_reject _ _

end Sys2Proof
end

section
/-!
PROOF. The AMMX stores (rules R69, R241, R242, R293 to R299): a whole quad or the selected bytes through a `<vea>`, and
the destinations a step refuses (rules R93, R104).
-/

namespace Sys2Proof.Machine

open Sys2Proof.Decode

/-! ### Refused destinations -/

/-- An instruction that is refused for its operand form wherever its words decode to it. -/
theorem stepRefusesForm_of_complaint (i : Instr)
    (h : ∀ cfg, NeedsStorem3 cfg i → i.complaint cfg = some .operandForm) : StepRefusesForm i := by
  intro s w ws rest even fetched line decoded
  have selected := nextInstr_of_decoded even fetched (fun lineA => absurd (line.symm.trans lineA) (by decide)) decoded
  rw [h s.cfg (decode_needsStorem3 s.cfg w ws line i rest decoded)] at selected
  rw [step, selected]
  rfl

theorem veaDestComplaint_readOnly {vea : Vea} (h : vea.readOnly = true) : veaDestComplaint vea = some .operandForm := by
  rw [veaDestComplaint, h]
  rfl

/-- A `<vea>` that can be written is no immediate (rule R104). -/
theorem loc_ne_imm_of_writable {vea : Vea} (h : veaDestComplaint vea = none) (s : State) (w : QWord) :
    (veaAt vea s).loc ≠ .imm w := by
  rw [veaDestComplaint, need_eq_none] at h
  cases vea with
  | immQ _ => cases h
  | immW _ => cases h
  | _ => simp [veaAt, locateVea]

/-! ### Whole quads -/

/-- A class S instruction stores its value (rule R105). -/
theorem ammxStores_of_classS {i : Instr} {vea : Vea} {s : State} {v : QWord} (admitted : veaDestComplaint vea = none)
    (wf : s.mem.wf = true) (writable : Writable ((veaAt vea s).loc.addrs .q) s) (meaning : exec i s = classS v vea s) :
    AmmxStores i vea s v :=
  (formed_veaAt vea s).stores (v := v) wf (loc_ne_imm_of_writable admitted s) writable meaning

theorem laneW_pack3216Vec (x y : QWord) (i : Nat) (hi : i < 2) :
    laneW (pack3216Vec x y) i = pack565 (laneL x i) ∧ laneW (pack3216Vec x y) (2 + i) = pack565 (laneL y i) := by
  have lanes (k : Nat) (hk : k < 4) :
      laneW (pack3216Vec x y) k = if k < 2 then pack565 (laneL x k) else pack565 (laneL y (k - 2)) :=
    laneW_ofWords (fun k => if k < 2 then pack565 (laneL x k) else pack565 (laneL y (k - 2))) k hk
  rw [lanes i (by omega), lanes (2 + i) (by omega), if_pos hi, if_neg (by omega), Nat.add_sub_cancel_left]
  exact ⟨rfl, rfl⟩

theorem laneB_packuswbVec (x y : QWord) (i : Nat) (hi : i < 4) :
    laneB (packuswbVec x y) i = satU8 (laneW x i).toInt ∧ laneB (packuswbVec x y) (4 + i) = satU8 (laneW y i).toInt := by
  rw [packuswbVec, laneB_ofBytes _ i (by omega), laneB_ofBytes _ (4 + i) (by omega), if_pos hi, if_neg (by omega),
    Nat.add_sub_cancel_left]
  exact ⟨rfl, rfl⟩

/-- Settles O53. -/
theorem quadStoresWriteTheirValue : Obligations.QuadStoresWriteTheirValue := by
  unfold Obligations.QuadStoresWriteTheirValue
  intro vea b d s
  refine ⟨fun wf wellFormed writable => ?stores, fun unassigned => ?refused, ?_, ?_, ?_, ?_, fun readOnly => ?form⟩
  case stores =>
    have admitted : veaDestComplaint vea = none := (wellFormed_iff _ _).mp wellFormed
    refine ⟨ammxStores_of_classS admitted wf writable rfl, fun r index => ammxStores_of_classS admitted wf writable ?_,
      ⟨_, ammxStores_of_classS admitted wf writable rfl, fun i hi => laneW_pack3216Vec _ _ i hi⟩,
      ⟨_, ammxStores_of_classS admitted wf writable rfl, fun i hi => ?_⟩⟩
    · rw [show exec _ s = execStorei b vea s from rfl, execStorei, r6_eq_sixBitReg, index]
    · obtain ⟨first, second⟩ := laneB_packuswbVec (s.quad (.d b)) (s.quad (.d d)) i hi
      rw [first, second, toNat_satU8, toNat_satU8]
      exact ⟨rfl, rfl⟩
  case refused => rw [show exec _ s = execStorei b vea s from rfl, execStorei, r6_eq_sixBitReg, unassigned]
  case form =>
    have complaint := veaDestComplaint_readOnly readOnly
    simp only [List.forall_mem_cons]
    exact ⟨stepRefusesForm_of_complaint _ fun _ _ => complaint, stepRefusesForm_of_complaint _ fun _ _ => complaint,
      stepRefusesForm_of_complaint _ fun _ _ => complaint, stepRefusesForm_of_complaint _ fun _ _ => complaint,
      fun _ h => (by cases h)⟩
  all_goals exact ammxWords_of_veaInstr _ _ vea b _ (by decide) (by decide) rfl

/-! ### Selected bytes -/

/-- An address a row is written to is that of a selected byte. -/
theorem selected_of_mem_written (bs : List (Option Byte)) (a x : Addr) (hx : x ∈ written a bs) :
    ∃ i v, bs[i]? = some (some v) ∧ x = a + BitVec.ofNat 32 i := by
  induction bs generalizing a with
  | nil => cases hx
  | cons b bs ih =>
    have later (h : x ∈ written (a + 1) bs) : ∃ i v, (b :: bs)[i]? = some (some v) ∧ x = a + BitVec.ofNat 32 i := by
      obtain ⟨i, v, hi, rfl⟩ := ih (a + 1) h
      refine ⟨i + 1, v, by simpa using hi, ?_⟩
      rw [show (1 : Addr) = BitVec.ofNat 32 1 from rfl, add_ofNat_add, Nat.add_comm]
    cases b with
    | none => exact later hx
    | some v =>
      obtain rfl | h := List.mem_cons.mp hx
      · exact ⟨0, v, rfl, (BitVec.add_zero x).symm⟩
      · exact later h

theorem maskedBytes_getElem (v : QWord) (p : Nat → Bool) (j : Nat) (hj : j < (maskedBytes v p).length) :
    (maskedBytes v p)[j] = if p j then some (laneB v j) else none := by
  simp [maskedBytes]

theorem maskedBytes_length (v : QWord) (p : Nat → Bool) : (maskedBytes v p).length = 8 := by simp [maskedBytes]

theorem mem_written_maskedBytes {v : QWord} {p : Nat → Bool} {a x : Addr} (hx : x ∈ written a (maskedBytes v p)) :
    ∃ j, j < 8 ∧ p j = true ∧ x = a + BitVec.ofNat 32 j := by
  obtain ⟨j, w, hj, rfl⟩ := selected_of_mem_written _ a x hx
  obtain ⟨bound, value⟩ := List.getElem?_eq_some_iff.mp hj
  rw [maskedBytes_getElem] at value
  refine ⟨j, by rwa [maskedBytes_length] at bound, ?_, rfl⟩
  by_contra h
  rw [if_neg h] at value
  cases value

/-- A masked store into memory writes exactly the selected bytes (rule R69). -/
theorem storeMasked_ok (a : Addr) (v : QWord) (p : Nat → Bool) (s : State) (wf : s.mem.wf = true)
    (writable : ∀ j, j < 8 → p j = true →
      s.inData (a + BitVec.ofNat 32 j) = true ∧ s.inText (a + BitVec.ofNat 32 j) = false) :
    ∃ t, storeBytes a (maskedBytes v p) s = .next t ∧ t.sr = s.sr ∧ t.pc = s.pc ∧ Frame [] (span a 8) s t ∧
      ∀ j, j < 8 → t.byteAt (a + BitVec.ofNat 32 j) = if p j then laneB v j else s.byteAt (a + BitVec.ofNat 32 j) := by
  have allowed : Writable (written a (maskedBytes v p)) s := fun x hx => by
    obtain ⟨j, hj, selected, rfl⟩ := mem_written_maskedBytes hx
    exact writable j hj selected
  refine ⟨_, (storeBytes_eq_next a (maskedBytes v p) s _).mpr
    ⟨fun x hx => (allowed x hx).2, fun x hx => (allowed x hx).1, rfl⟩, rfl, rfl,
    (frame_store s a (maskedBytes v p) wf).mono (fun _ h => h) (fun x hx => ?_), fun j hj => ?_⟩
  · obtain ⟨j, hj, -, rfl⟩ := mem_written_maskedBytes hx
    exact mem_span.mpr ⟨j, hj, rfl⟩
  · refine (Memory.byte_store (maskedBytes v p) s.mem a wf j (by rwa [maskedBytes_length])
      (by rw [maskedBytes_length]; decide)).trans ?_
    rw [maskedBytes_getElem]
    cases p j <;> rfl

/-- A masked class S instruction writes the bytes its mask selects, or a register whole (rules R69, R105). -/
theorem ammxMasks_of_classSMasked {i : Instr} {vea : Vea} {s : State} {v : QWord} {p : Nat → Bool} {P : Nat → Prop}
    (admitted : veaDestComplaint vea = none) (meaning : exec i s = classSMasked v p vea s)
    (mask : ∀ j, j < 8 → (p j = true ↔ P j)) (wf : s.mem.wf = true)
    (writable : ∀ ea, (veaAt vea s).loc = .mem ea → ∀ j, j < 8 → P j →
      s.inData (ea + BitVec.ofNat 32 j) = true ∧ s.inText (ea + BitVec.ofNat 32 j) = false) :
    AmmxMasks i vea s v P := by
  have formed := formed_veaAt vea s
  have pc : s.pc + BitVec.ofNat 32 (ammxBytes vea) = s.pc + BitVec.ofNat 32 (4 + 2 * vea.extWords) := rfl
  rw [classSMasked, writeMasked] at meaning
  unfold AmmxMasks
  cases loc : (veaAt vea s).loc with
  | imm w => exact absurd loc (loc_ne_imm_of_writable admitted s w)
  | reg r =>
    rw [loc] at meaning
    have apart : r ∉ steppedVea vea := formed.apart r (by rw [loc]; exact List.mem_singleton_self r)
    refine ⟨_, meaning, by simp [formed.sr], by simp [formed.pc, pc],
      ((formed.frame.trans (frame_setQuad _ r v)).advance _).mono (fun _ h => h) (fun _ h => h), fun x hx => ?_,
      fun x hx => ?_, fun ea h => (by cases h)⟩
    · exact congrArg Reg64.lo (State.reg_setQuad_ne _ r x v (by rintro rfl; exact apart hx))
    · cases hx
      exact State.quad_setQuad_self ..
  | mem a =>
    rw [loc] at meaning
    obtain ⟨t, done, sr, pct, frame, bytes⟩ := storeMasked_ok a v p (veaAt vea s).st (by rw [formed.mem]; exact wf)
      fun j hj selected => by
        rw [inData_congr formed.frame.regions, inText_congr formed.frame.text]
        exact writable a loc j hj ((mask j hj).mp selected)
    refine ⟨_, meaning.trans (congrArg (finish (ammxBytes vea)) done), by simp [sr, formed.sr], by simp [pct, formed.pc, pc],
      ((formed.frame.trans frame).advance _).mono (fun _ h => h) (fun _ h => h),
      fun x _ => congrArg Reg64.lo (frame.reg x List.not_mem_nil), fun x h => (by cases h), fun ea h j hj => ?_⟩
    cases h
    have byte := bytes j hj
    refine ⟨fun selected => byte.trans (if_pos ((mask j hj).mpr selected)), fun other => ?_⟩
    exact (byte.trans (if_neg fun h => other ((mask j hj).mp h))).trans (formed.frame.byte _ List.not_mem_nil)

/-- Settles O54. -/
theorem maskedStoresWriteExactlyTheSelectedBytes : Obligations.MaskedStoresWriteExactlyTheSelectedBytes := by
  unfold Obligations.MaskedStoresWriteExactlyTheSelectedBytes
  intro vea b d s x m masked
  have masks {i : Instr} {p : Nat → Bool} {P : Nat → Prop} (admits : i.complaint s.cfg = none → veaDestComplaint vea = none)
      (meaning : exec i s = classSMasked x p vea s) (mask : ∀ j, j < 8 → (p j = true ↔ P j)) : masked i P :=
    fun wellFormed => ammxMasks_of_classSMasked (admits ((wellFormed_iff _ _).mp wellFormed)) meaning mask
  have storem3 {mode xx : BitVec 2} (h : (Instr.storem3 b mode xx vea).complaint s.cfg = none) :
      veaDestComplaint vea = none := ((firstComplaint_eq_none _ _).mp h).2
  refine ⟨masks id rfl fun j _ => decide_eq_true_iff, masks id rfl fun j _ => iff_of_eq (Bool.not_eq_true' _),
    masks id rfl fun j hj => ?storem, ?_, ?_, ?_,
    fun cfg op mode xx ws given => decode_storem3 cfg op vea b mode xx ws given, fun readOnly mode xx => ?form,
    fun xx => ⟨masks storem3 rfl fun j _ => Iff.rfl, masks storem3 rfl fun j _ => bne_iff_ne,
      masks storem3 rfl fun j _ => bne_iff_ne, masks storem3 rfl fun j _ => iff_of_eq (Bool.not_eq_true' _)⟩⟩
  case storem =>
    have low (k : Nat) (hk : k < 8) : (m.extractLsb' 0 8).getLsbD k = m.getLsbD k := by simp [hk]
    unfold bitMask
    cases s.cfg.storemOrder with
    | msbFirst => exact iff_of_eq (congrArg (· = true) (low (7 - j) (by omega)))
    | lsbFirst => exact iff_of_eq (congrArg (· = true) (low j hj))
  case form =>
    have complaint := veaDestComplaint_readOnly readOnly
    simp only [List.forall_mem_cons]
    refine ⟨stepRefusesForm_of_complaint _ fun _ _ => complaint, stepRefusesForm_of_complaint _ fun _ _ => complaint,
      stepRefusesForm_of_complaint _ fun _ _ => complaint, stepRefusesForm_of_complaint _ fun cfg given => ?_,
      fun _ h => (by cases h)⟩
    rw [Instr.complaint, given rfl, complaint]
    rfl
  all_goals exact ammxWords_of_veaInstr _ _ vea b d (by decide) (by decide) rfl

end Sys2Proof.Machine
end

section
/-!
PROOF. The numbers of the floating-point formats (rules R321, R325 to R330). The magnitude bits of a format, exponent and
fraction together, count the format's numbers upwards; from this the conversions between doubles, singles and integers.
-/

namespace Sys2Proof.Machine

/-! ### Magnitudes of a format -/

/-- The number that magnitude bits `n` stand for, in a format of `p` fraction bits whose least number is `2^q`. -/
def magnitude (p : Nat) (q : Int) (n : Nat) : ℚ :=
  ((if n / 2 ^ p = 0 then n % 2 ^ p else 2 ^ p + n % 2 ^ p : Nat) : ℚ) * 2 ^ (q + (max (n / 2 ^ p) 1 : Nat) - 1)

/-- Magnitude bits as units of the last place, `t` of them of `2^(q + j)`; the formula holds up to the next binade. -/
theorem magnitude_units (p : Nat) (q : Int) (j t : Nat) (small : t ≤ 2 ^ (p + 1)) (normal : j = 0 ∨ 2 ^ p ≤ t) :
    magnitude p q (j * 2 ^ p + t) = t * 2 ^ (q + j) := by
  have pos : 0 < 2 ^ p := Nat.two_pow_pos p
  have double : 2 ^ (p + 1) = 2 * 2 ^ p := by rw [pow_succ, mul_comm]
  have shape (i r : Nat) (hr : r < 2 ^ p) : (i * 2 ^ p + r) / 2 ^ p = i ∧ (i * 2 ^ p + r) % 2 ^ p = r := by
    rw [Nat.mul_comm]
    exact ⟨by rw [Nat.mul_add_div pos, Nat.div_eq_of_lt hr, Nat.add_zero], by rw [Nat.mul_add_mod, Nat.mod_eq_of_lt hr]⟩
  by_cases denormal : t < 2 ^ p
  · obtain rfl : j = 0 := by omega
    obtain ⟨exp, frac⟩ := shape 0 t denormal
    rw [magnitude, exp, frac, if_pos rfl]
    simp
  by_cases next : t = 2 ^ (p + 1)
  · obtain ⟨exp, frac⟩ := shape (j + 2) 0 pos
    rw [show j * 2 ^ p + t = (j + 2) * 2 ^ p + 0 by rw [next, double]; ring, magnitude, exp, frac, if_neg (by omega), next,
      double, max_eq_left (by omega), show q + ((j + 2 : Nat) : Int) - 1 = 1 + (q + j) by push_cast; ring,
      zpow_add₀ (by norm_num : (2 : ℚ) ≠ 0)]
    push_cast
    ring
  · obtain ⟨exp, frac⟩ := shape (j + 1) (t - 2 ^ p) (by omega)
    rw [show j * 2 ^ p + t = (j + 1) * 2 ^ p + (t - 2 ^ p) by rw [Nat.add_mul]; omega, magnitude, exp, frac,
      if_neg (by omega), show 2 ^ p + (t - 2 ^ p) = t by omega, max_eq_left (by omega),
      show q + ((j + 1 : Nat) : Int) - 1 = q + j by push_cast; ring]

/-- Magnitude bits are some units of the last place. -/
theorem exists_units (p n : Nat) : ∃ j t, n = j * 2 ^ p + t ∧ t < 2 ^ (p + 1) ∧ (j = 0 ∨ 2 ^ p ≤ t) := by
  have pos : 0 < 2 ^ p := Nat.two_pow_pos p
  have double : 2 ^ (p + 1) = 2 * 2 ^ p := by rw [pow_succ, mul_comm]
  have rest := Nat.mod_lt n pos
  have whole := Nat.div_add_mod' n (2 ^ p)
  cases exp : n / 2 ^ p with
  | zero => exact ⟨0, n % 2 ^ p, by rw [exp] at whole; omega, by omega, .inl rfl⟩
  | succ j =>
    refine ⟨j, 2 ^ p + n % 2 ^ p, ?_, by omega, .inr (by omega)⟩
    rw [exp, Nat.succ_mul] at whole
    omega

/-- Larger magnitude bits stand for larger numbers. -/
theorem magnitude_strictMono (p : Nat) (q : Int) : StrictMono (magnitude p q) := by
  refine strictMono_nat_of_lt_succ fun n => ?_
  obtain ⟨j, t, rfl, small, normal⟩ := exists_units p n
  rw [Nat.add_assoc, magnitude_units p q j t small.le normal, magnitude_units p q j (t + 1) small (by omega)]
  have unit : (0 : ℚ) < 2 ^ (q + j) := by positivity
  push_cast
  linarith

theorem magnitude_zero (p : Nat) (q : Int) : magnitude p q 0 = 0 := by
  have := magnitude_units p q 0 0 (Nat.zero_le _) (.inl rfl)
  simpa using this

theorem magnitude_nonneg (p : Nat) (q : Int) (n : Nat) : 0 ≤ magnitude p q n := by
  rw [← magnitude_zero p q]
  exact (magnitude_strictMono p q).monotone (Nat.zero_le n)

/-! ### The numbers of doubles and singles -/

/-- The sign of a number (rule R321). -/
def signOf (s : Bool) : ℚ := if s then -1 else 1

theorem abs_signOf_mul (s : Bool) (a : ℚ) (h : 0 ≤ a) : |signOf s * a| = a := by
  cases s <;> simp [signOf, abs_of_nonneg h]

/-- The magnitude bits of a double and of a single. -/
def dblBits (x : QWord) : Nat := (x.extractLsb' 0 63).toNat

def sglBits (w : Long) : Nat := (w.extractLsb' 0 31).toNat

theorem dblBits_exp (x : QWord) : dblBits x / 2 ^ 52 = dblExp x := by
  simp only [dblBits, dblExp, BitVec.extractLsb'_toNat, Nat.shiftRight_eq_div_pow]
  omega

theorem dblBits_frac (x : QWord) : dblBits x % 2 ^ 52 = dblFrac x := by
  simp only [dblBits, dblFrac, BitVec.extractLsb'_toNat, Nat.shiftRight_eq_div_pow]
  omega

theorem sglBits_exp (w : Long) : sglBits w / 2 ^ 23 = (w.extractLsb' 23 8).toNat := by
  simp only [sglBits, BitVec.extractLsb'_toNat, Nat.shiftRight_eq_div_pow]
  omega

theorem sglBits_frac (w : Long) : sglBits w % 2 ^ 23 = (w.extractLsb' 0 23).toNat := by
  simp only [sglBits, BitVec.extractLsb'_toNat, Nat.shiftRight_eq_div_pow]
  omega

theorem dblNumber_eq_magnitude (x : QWord) : dblNumber x = signOf x.msb * magnitude 52 (-1074) (dblBits x) := by
  rw [magnitude, dblBits_exp, dblBits_frac]
  simp only [dblNumber, signOf]
  change _ * (if dblExp x = 0 then (dblFrac x : ℚ) * _ else
    ((2 ^ 52 + dblFrac x : Nat) : ℚ) * 2 ^ ((dblExp x : Int) - 1075)) = _
  by_cases h : dblExp x = 0
  · simp [h]
  · rw [if_neg h, if_neg h, max_eq_left (by omega),
      show (-1074 : Int) + (dblExp x : Int) - 1 = (dblExp x : Int) - 1075 by ring]

theorem sglNumber_eq_magnitude (w : Long) : sglNumber w = signOf w.msb * magnitude 23 (-149) (sglBits w) := by
  rw [magnitude, sglBits_exp, sglBits_frac]
  simp only [sglNumber, signOf]
  by_cases h : (w.extractLsb' 23 8).toNat = 0
  · simp [h]
  · rw [if_neg h, if_neg h, max_eq_left (by omega),
      show (-149 : Int) + ((w.extractLsb' 23 8).toNat : Int) - 1 = ((w.extractLsb' 23 8).toNat : Int) - 150 by ring]

/-- A double's magnitude as its significand and scale. -/
theorem dblMagnitude_eq (x : QWord) : magnitude 52 (-1074) (dblBits x) = dblMant x * 2 ^ dblScale x := by
  rw [magnitude, dblBits_exp, dblBits_frac, dblMant, dblScale,
    show (-1074 : Int) + (max (dblExp x) 1 : Nat) - 1 = (max (dblExp x) 1 : Nat) - 1075 by ring]

/-- A value of the layout is its sign and its magnitude bits. -/
theorem dbl_ext {x y : QWord} (sign : x.msb = y.msb) (bits : dblBits x = dblBits y) : x = y := by
  apply BitVec.eq_of_getLsbD_eq
  intro i hi
  by_cases top : i = 63
  · subst top
    exact sign
  · have low := congrArg (BitVec.getLsbD · i) (BitVec.eq_of_toNat_eq bits)
    simpa [show i < 63 by omega] using low

theorem sgl_ext {x y : Long} (sign : x.msb = y.msb) (bits : sglBits x = sglBits y) : x = y := by
  apply BitVec.eq_of_getLsbD_eq
  intro i hi
  by_cases top : i = 31
  · subst top
    exact sign
  · have low := congrArg (BitVec.getLsbD · i) (BitVec.eq_of_toNat_eq bits)
    simpa [show i < 31 by omega] using low

theorem dblSpecial_iff (x : QWord) : dblSpecial x ↔ dblExp x = 0x7FF := by
  rw [dblSpecial, dblExp]
  exact ⟨fun h => by rw [h]; rfl, fun h => BitVec.eq_of_toNat_eq h⟩

theorem sglSpecial_iff (w : Long) : sglSpecial w ↔ 0x7F800000 ≤ sglBits w := by
  have bound : (w.extractLsb' 0 31).toNat < 2 ^ 31 := (w.extractLsb' 0 31).isLt
  have exp := sglBits_exp w
  rw [sglSpecial]
  unfold sglBits at *
  constructor
  · intro h
    rw [h] at exp
    simp only [BitVec.reduceToNat] at exp
    omega
  · intro h
    refine BitVec.eq_of_toNat_eq ?_
    rw [← exp]
    simp only [BitVec.reduceToNat]
    omega

/-! ### Values put together -/

theorem mkDbl_fields (s : Bool) (e f : Nat) :
    (mkDbl s e f).msb = s ∧ (mkDbl s e f).extractLsb' 52 11 = BitVec.ofNat 11 e ∧
      (mkDbl s e f).extractLsb' 0 52 = BitVec.ofNat 52 f := by
  refine ⟨?_, ?_, ?_⟩
  · rw [mkDbl, BitVec.msb_append, BitVec.msb_append]
    simp
  · simp (disch := omega) [mkDbl, BitVec.extractLsb'_append_eq_of_le, BitVec.extractLsb'_append_eq_of_add_le,
      -Nat.reduceAdd]
  · simp (disch := omega) [mkDbl, BitVec.extractLsb'_append_eq_of_add_le, -Nat.reduceAdd]

theorem mkDbl_bits (s : Bool) (e f : Nat) (he : e < 2 ^ 11) (hf : f < 2 ^ 52) : dblBits (mkDbl s e f) = e * 2 ^ 52 + f := by
  obtain ⟨-, exp, frac⟩ := mkDbl_fields s e f
  have h1 := dblBits_exp (mkDbl s e f)
  have h2 := dblBits_frac (mkDbl s e f)
  rw [dblExp, exp, BitVec.toNat_ofNat] at h1
  rw [dblFrac, frac, BitVec.toNat_ofNat] at h2
  omega

theorem mkSingle_msb (s : Bool) (n : Nat) : (mkSingle s n).msb = s := by
  rw [mkSingle, BitVec.msb_append]
  simp

theorem mkSingle_bits (s : Bool) (n : Nat) (h : n < 2 ^ 31) : sglBits (mkSingle s n) = n := by
  have low : (mkSingle s n).extractLsb' 0 31 = BitVec.ofNat 31 n := by
    rw [mkSingle, BitVec.extractLsb'_append_eq_of_add_le (by omega), BitVec.extractLsb'_eq_self]
  rw [sglBits, low, BitVec.toNat_ofNat, Nat.mod_eq_of_lt h]

/-- `exactDbl` gives the double of the number it is asked for (rule R321). -/
theorem exactDbl_spec (s : Bool) (m : Nat) (e : Int) (hm : m < 2 ^ 53)
    (range : m ≠ 0 → -1022 ≤ e + Nat.log2 m ∧ e + Nat.log2 m ≤ 1023) :
    ¬ dblSpecial (exactDbl s m e) ∧ dblNumber (exactDbl s m e) = signOf s * (m * 2 ^ e) ∧ (exactDbl s m e).msb = s := by
  by_cases zero : m = 0
  · subst zero
    obtain ⟨sign, exp, -⟩ := mkDbl_fields s 0 0
    have bits := mkDbl_bits s 0 0 (by decide) (by decide)
    refine ⟨?_, ?_, sign⟩
    · rw [dblSpecial, exactDbl, if_pos rfl, exp]
      decide
    · rw [dblNumber_eq_magnitude, exactDbl, if_pos rfl, bits]
      simp [magnitude_zero]
  · obtain ⟨low, high⟩ := range zero
    have k53 : Nat.log2 m < 53 := (Nat.log2_lt zero).mpr hm
    have atLeast := Nat.log2_self_le zero
    have below : m < 2 ^ (Nat.log2 m + 1) := Nat.lt_log2_self
    have value : exactDbl s m e = mkDbl s (e + Nat.log2 m + 1023).toNat (m * 2 ^ (52 - Nat.log2 m) - 2 ^ 52) := by
      rw [exactDbl, if_neg zero]
    generalize Nat.log2 m = k at *
    have split : (2 : Nat) ^ 52 = 2 ^ k * 2 ^ (52 - k) := by rw [← pow_add]; congr 1; omega
    have t1 : 2 ^ 52 ≤ m * 2 ^ (52 - k) := by
      rw [split]
      exact Nat.mul_le_mul_right _ atLeast
    have t2 : m * 2 ^ (52 - k) < 2 ^ 53 := by
      have := Nat.mul_lt_mul_of_pos_right below (Nat.two_pow_pos (52 - k))
      rwa [← pow_add, show k + 1 + (52 - k) = 53 by omega] at this
    obtain ⟨E, hE⟩ : ∃ E : Nat, e + k + 1023 = E + 1 := ⟨(e + k + 1022).toNat, by omega⟩
    rw [hE, show ((E : Int) + 1).toNat = E + 1 by omega] at value
    obtain ⟨sign, exp, -⟩ := mkDbl_fields s (E + 1) (m * 2 ^ (52 - k) - 2 ^ 52)
    have bits := mkDbl_bits s (E + 1) (m * 2 ^ (52 - k) - 2 ^ 52) (by omega) (by omega)
    rw [value]
    refine ⟨?_, ?_, sign⟩
    · rw [dblSpecial, exp]
      intro h
      have := congrArg BitVec.toNat h
      rw [BitVec.toNat_ofNat] at this
      simp only [BitVec.reduceToNat] at this
      omega
    · rw [dblNumber_eq_magnitude, sign, bits,
        show (E + 1) * 2 ^ 52 + (m * 2 ^ (52 - k) - 2 ^ 52) = E * 2 ^ 52 + m * 2 ^ (52 - k) by rw [Nat.add_mul]; omega,
        magnitude_units 52 _ E _ t2.le (.inr t1), show e = (52 - k : Nat) + (-1074 + E : Int) by omega,
        zpow_add₀ (by norm_num : (2 : ℚ) ≠ 0) (52 - k : Nat) (-1074 + E : Int), zpow_natCast]
      generalize (2 : ℚ) ^ (-1074 + E : Int) = unit
      push_cast
      ring

/-! ### Integers -/

theorem dblOfInt_spec (v : Int) (small : v.natAbs < 2 ^ 53) :
    ¬ dblSpecial (dblOfInt v) ∧ dblNumber (dblOfInt v) = (v : ℚ) ∧ (dblNumber (dblOfInt v) = 0 → dblOfInt v = 0) := by
  have range (h : v.natAbs ≠ 0) : -1022 ≤ (0 : Int) + Nat.log2 v.natAbs ∧ (0 : Int) + Nat.log2 v.natAbs ≤ 1023 := by
    have := (Nat.log2_lt h).mpr small
    omega
  obtain ⟨finite, number, -⟩ := exactDbl_spec (v < 0) v.natAbs 0 small range
  have value : dblNumber (dblOfInt v) = v := by
    rw [dblOfInt, number, zpow_zero, mul_one, Nat.cast_natAbs]
    by_cases h : v < 0
    · simp [signOf, h, abs_of_neg h]
    · simp [signOf, h, abs_of_nonneg (not_lt.mp h)]
  refine ⟨finite, value, fun zero => ?_⟩
  obtain rfl : v = 0 := by exact_mod_cast value.symm.trans zero
  decide

/-! ### Singles -/

theorem nanFrac_bounds (n : Nat) (hn : 0 < n) (free : QWord) : nanFrac n free ≠ 0 ∧ nanFrac n free < 2 ^ n := by
  have one : 1 < 2 ^ n := Nat.one_lt_two_pow (by omega)
  have rest := Nat.mod_lt free.toNat (Nat.two_pow_pos n)
  unfold nanFrac
  simp only
  split <;> omega

theorem ofNat_nanFrac_ne_zero (n : Nat) (hn : 0 < n) (free : QWord) : BitVec.ofNat n (nanFrac n free) ≠ 0#n := by
  obtain ⟨nonzero, bound⟩ := nanFrac_bounds n hn free
  intro e
  have zero := congrArg BitVec.toNat e
  rw [BitVec.toNat_ofNat, Nat.mod_eq_of_lt bound] at zero
  exact nonzero zero

/-- The double of a finite single is of its number and sign (rule R325). -/
theorem dblOfSingle_finite (w : Long) (free : QWord) (h : ¬ sglSpecial w) :
    ¬ dblSpecial (dblOfSingle w free) ∧ dblNumber (dblOfSingle w free) = sglNumber w ∧
      (dblOfSingle w free).msb = w.msb := by
  have finite : (w.extractLsb' 23 8).toNat ≠ 255 := fun e => h (BitVec.eq_of_toNat_eq e)
  have expBound : (w.extractLsb' 23 8).toNat < 2 ^ 8 := BitVec.isLt _
  have fracBound : (w.extractLsb' 0 23).toNat < 2 ^ 23 := BitVec.isLt _
  have number : sglNumber w = signOf w.msb * ((if (w.extractLsb' 23 8).toNat = 0 then (w.extractLsb' 0 23).toNat else
      2 ^ 23 + (w.extractLsb' 0 23).toNat : Nat) * 2 ^ (((max (w.extractLsb' 23 8).toNat 1 : Nat) : Int) - 150)) := by
    rw [sglNumber_eq_magnitude, magnitude, sglBits_exp, sglBits_frac,
      show (-149 : Int) + (max (w.extractLsb' 23 8).toNat 1 : Nat) - 1 = (max (w.extractLsb' 23 8).toNat 1 : Nat) - 150 by ring]
  rw [number, dblOfSingle, if_neg finite]
  generalize (w.extractLsb' 23 8).toNat = e at *
  generalize (w.extractLsb' 0 23).toNat = f at *
  have small : (if e = 0 then f else 2 ^ 23 + f) < 2 ^ 24 := by split <;> omega
  exact exactDbl_spec _ _ _ (by omega) fun nonzero => by
    have := (Nat.log2_lt nonzero).mpr small
    omega

/-- The double of an infinity is one of its sign, and of a NaN a NaN (rule R325). -/
theorem dblOfSingle_special (w : Long) (free : QWord) (h : sglSpecial w) :
    dblSpecial (dblOfSingle w free) ∧
      ((dblOfSingle w free).extractLsb' 0 52 = 0#52 ↔ w.extractLsb' 0 23 = 0#23) ∧ (dblOfSingle w free).msb = w.msb := by
  have special : (w.extractLsb' 23 8).toNat = 255 := by rw [show w.extractLsb' 23 8 = 0xFF from h]; rfl
  rw [dblOfSingle, if_pos special]
  obtain ⟨sign, exp, frac⟩ := mkDbl_fields w.msb 0x7FF (if (w.extractLsb' 0 23).toNat = 0 then 0 else nanFrac 52 free)
  have zero : (w.extractLsb' 0 23).toNat = 0 ↔ w.extractLsb' 0 23 = 0#23 :=
    ⟨fun e => BitVec.eq_of_toNat_eq e, fun e => by rw [e]; rfl⟩
  refine ⟨exp, ?_, sign⟩
  rw [frac, ← zero]
  by_cases none : (w.extractLsb' 0 23).toNat = 0
  · simp [none]
  · rw [if_neg none]
    exact ⟨fun e => absurd e (ofNat_nanFrac_ne_zero 52 (by decide) free), fun e => absurd e none⟩

/-- An FMOVE operand converts as rule R325 says. -/
theorem converted_dblOfOperand (fmt : FpFmt) (v free : QWord) : Converted fmt v (dblOfOperand fmt v free) := by
  have small {n : Nat} (hn : n ≤ 32) (b : BitVec n) : b.toInt.natAbs < 2 ^ 53 := by
    have low := BitVec.le_toInt b
    have high := BitVec.toInt_lt (x := b)
    have power : (2 : Int) ^ (n - 1) ≤ 2 ^ 32 := pow_le_pow_right₀ (by norm_num) (by omega)
    norm_num at power
    omega
  cases fmt with
  | b => exact dblOfInt_spec _ (small (by omega) _)
  | w => exact dblOfInt_spec _ (small (by omega) _)
  | l => exact dblOfInt_spec _ (small (by omega) _)
  | s =>
    refine ⟨fun finite => dblOfSingle_finite _ free finite, fun special => ?_⟩
    obtain ⟨isSpecial, frac, sign⟩ := dblOfSingle_special _ free special
    exact ⟨isSpecial, frac, fun _ => sign⟩
  | d => rfl

/-! ### Truncation -/

/-- A significand and scale with its fraction dropped. -/
theorem floor_scaled (m : Nat) (e : Int) :
    ⌊(m : ℚ) * 2 ^ e⌋ = ((if 0 ≤ e then m * 2 ^ e.toNat else m / 2 ^ (-e).toNat : Nat) : Int) := by
  by_cases whole : 0 ≤ e
  · obtain ⟨n, rfl⟩ := Int.eq_ofNat_of_zero_le whole
    rw [if_pos whole, show (m : ℚ) * 2 ^ (n : Int) = ((m * 2 ^ n : Nat) : ℚ) by push_cast; rfl, Int.floor_natCast]
    rfl
  · obtain ⟨n, rfl⟩ : ∃ n : Nat, e = -n := ⟨(-e).toNat, by omega⟩
    rw [if_neg whole, show (m : ℚ) * 2 ^ (-(n : Int)) = ((m : Int) : ℚ) / ((2 ^ n : Nat) : ℚ) by
      rw [zpow_neg, zpow_natCast]; push_cast; rfl, Rat.floor_intCast_div_natCast]
    simp

theorem towardZero_signOf (s : Bool) (a : ℚ) (h : 0 ≤ a) : towardZero (signOf s * a) = if s then -⌊a⌋ else ⌊a⌋ := by
  unfold towardZero signOf
  cases s with
  | false => simp [h]
  | true =>
    by_cases zero : a = 0
    · simp [zero]
    · have negative : ¬ 0 ≤ -1 * a := by
        have : 0 < a := lt_of_le_of_ne h (Ne.symm zero)
        linarith
      simp only [if_true, if_neg negative]
      rw [neg_one_mul, Int.ceil_neg]

/-- `truncDbl` gives the number truncated toward zero (rule R329). -/
theorem towardZero_dblNumber (x : QWord) : towardZero (dblNumber x) = truncDbl x := by
  rw [dblNumber_eq_magnitude, towardZero_signOf _ _ (magnitude_nonneg ..), dblMagnitude_eq, floor_scaled]
  rfl

/-- A double of an integer's number has no fraction. -/
theorem isIntegral_of_int {x : QWord} {k : Int} (h : dblNumber x = (k : ℚ)) : isIntegral x = true := by
  unfold isIntegral
  by_cases whole : 0 ≤ dblScale x
  · rw [if_pos whole]
  · rw [if_neg whole, decide_eq_true_eq]
    have size : (dblMant x : ℚ) * 2 ^ dblScale x = (k.natAbs : ℚ) := by
      rw [Nat.cast_natAbs, Int.cast_abs, ← h, dblNumber_eq_magnitude, abs_signOf_mul _ _ (magnitude_nonneg ..),
        dblMagnitude_eq]
    obtain ⟨n, scale⟩ : ∃ n : Nat, dblScale x = -n := ⟨(-dblScale x).toNat, by omega⟩
    rw [scale, zpow_neg, zpow_natCast] at size
    have power : (2 : ℚ) ^ n ≠ 0 := by positivity
    have product : dblMant x = k.natAbs * 2 ^ n := by
      have : (dblMant x : ℚ) = k.natAbs * 2 ^ n := by field_simp at size; rw [size, mul_comm]
      exact_mod_cast this
    rw [scale, product]
    simp

/-! ### Rounding to single precision -/

/-- The magnitude bits of a single at or below a number `v`, the greatest such, and whether it is equal. -/
structure SingleBelow (v : ℚ) (mag : Nat) (exact : Bool) : Prop where
  finite : mag < 0x7F800000
  below : magnitude 23 (-149) mag ≤ v
  next : mag + 1 < 0x7F800000 → v < magnitude 23 (-149) (mag + 1)
  exact : exact = true ↔ magnitude 23 (-149) mag = v

/-- A number as `m` parts of a unit of the last place of a single, each part `2^-d` of it. -/
theorem singleBelow_of_units (j m d : Nat) (small : m < 2 ^ (24 + d)) (normal : j = 0 ∨ 2 ^ (23 + d) ≤ m)
    (range : j ≤ 253) :
    SingleBelow (m * 2 ^ ((j : Int) - 149 - d)) (j * 2 ^ 23 + m / 2 ^ d) (decide (m % 2 ^ d = 0)) := by
  have part : 0 < 2 ^ d := Nat.two_pow_pos d
  have below : m / 2 ^ d < 2 ^ 24 := by rwa [Nat.div_lt_iff_lt_mul part, ← pow_add]
  have above : j = 0 ∨ 2 ^ 23 ≤ m / 2 ^ d := normal.imp id fun h => by
    rwa [Nat.le_div_iff_mul_le part, ← pow_add]
  have here : magnitude 23 (-149) (j * 2 ^ 23 + m / 2 ^ d) = (m / 2 ^ d : Nat) * 2 ^ (-149 + j : Int) :=
    magnitude_units 23 (-149) j _ below.le above
  have following : magnitude 23 (-149) (j * 2 ^ 23 + m / 2 ^ d + 1) = (m / 2 ^ d + 1 : Nat) * 2 ^ (-149 + j : Int) := by
    rw [Nat.add_assoc]
    exact magnitude_units 23 (-149) j _ below (above.imp id fun h => by omega)
  have unit : (2 : ℚ) ^ (-149 + j : Int) = 2 ^ d * 2 ^ ((j : Int) - 149 - d) := by
    rw [← zpow_natCast, ← zpow_add₀ (by norm_num : (2 : ℚ) ≠ 0)]
    congr 1
    ring
  have positive : (0 : ℚ) < 2 ^ ((j : Int) - 149 - d) := by positivity
  have parts := Nat.div_add_mod' m (2 ^ d)
  have rest := Nat.mod_lt m part
  rw [unit, ← mul_assoc, show ((2 : ℚ) ^ d) = ((2 ^ d : Nat) : ℚ) by push_cast; rfl, ← Nat.cast_mul] at here following
  refine ⟨by omega, ?below, fun _ => ?next, ?exact⟩
  case below =>
    rw [here, mul_le_mul_iff_left₀ positive, Nat.cast_le]
    omega
  case next =>
    rw [following, mul_lt_mul_iff_left₀ positive, Nat.cast_lt, Nat.add_mul]
    omega
  case exact =>
    rw [here, decide_eq_true_eq, mul_left_inj' positive.ne', Nat.cast_inj]
    omega

/-- `singleBelow` gives the greatest single at or below a double, whose magnitude bits no finite single exceeds. -/
theorem singleBelow_spec (x : QWord) :
    SingleBelow (magnitude 52 (-1074) (dblBits x)) (singleBelow x).1 (singleBelow x).2 := by
  rw [dblMagnitude_eq]
  unfold singleBelow
  have mantissa : dblMant x < 2 ^ 53 := by
    have := (x.extractLsb' 0 52).isLt
    unfold dblMant dblFrac
    split <;> omega
  have scale : -1074 ≤ dblScale x := by unfold dblScale; omega
  generalize dblMant x = m at *
  generalize dblScale x = e at *
  by_cases zero : m = 0
  · subst zero
    have least := magnitude_strictMono 23 (-149) (show 0 < 1 by decide)
    rw [magnitude_zero] at least
    simp only [if_true, Nat.cast_zero, zero_mul]
    exact ⟨by decide, (magnitude_zero ..).le, fun _ => least, by simp [magnitude_zero]⟩
  have atLeast := Nat.log2_self_le zero
  have below : m < 2 ^ (Nat.log2 m + 1) := Nat.lt_log2_self
  have k53 : Nat.log2 m < 53 := (Nat.log2_lt zero).mpr mantissa
  simp only [if_neg zero]
  generalize Nat.log2 m = k at *
  by_cases large : 104 < max (e + k - 23) (-149)
  · have huge : (2 : ℚ) ^ (128 : Int) ≤ m * 2 ^ e := calc
      (2 : ℚ) ^ (128 : Int) ≤ 2 ^ (k + e : Int) := zpow_le_zpow_right₀ (by norm_num) (by omega)
      _ = ((2 ^ k : Nat) : ℚ) * 2 ^ e := by rw [zpow_add₀ (by norm_num), zpow_natCast]; push_cast; rfl
      _ ≤ m * 2 ^ e := mul_le_mul_of_nonneg_right (by exact_mod_cast atLeast) (by positivity)
    have infinity : magnitude 23 (-149) 0x7F800000 = 2 ^ (128 : Int) := by
      rw [show 0x7F800000 = 253 * 2 ^ 23 + 2 ^ 24 by norm_num, magnitude_units 23 (-149) 253 (2 ^ 24) le_rfl (by norm_num)]
      norm_num
    have greatest : magnitude 23 (-149) 0x7F7FFFFF < m * 2 ^ e :=
      ((magnitude_strictMono 23 (-149) (by decide : 0x7F7FFFFF < 0x7F800000)).trans_eq infinity).trans_le huge
    simp only [if_pos large]
    exact ⟨by decide, greatest.le, fun h => absurd h (by decide), by simp [greatest.ne]⟩
  simp only [if_neg large]
  obtain ⟨j, hj⟩ : ∃ j : Nat, max (e + k - 23) (-149) = (j : Int) - 149 := ⟨(max (e + k - 23) (-149) + 149).toNat, by omega⟩
  simp only [hj, Int.sub_add_cancel, Int.toNat_natCast]
  by_cases whole : (j : Int) - 149 ≤ e
  · obtain ⟨n, rfl⟩ : ∃ n : Nat, e = (n : Int) + (j - 149) := ⟨(e - (j - 149)).toNat, by omega⟩
    have shifted : m * 2 ^ n < 2 ^ (k + 1 + n) := by
      rw [pow_add]
      exact Nat.mul_lt_mul_of_pos_right below (Nat.two_pow_pos n)
    have units := singleBelow_of_units j (m * 2 ^ n) 0 (shifted.trans_le (Nat.pow_le_pow_right (by decide) (by omega)))
      (or_iff_not_imp_left.mpr fun normal => calc
        2 ^ (23 + 0) = 2 ^ k * 2 ^ n := by rw [← pow_add]; congr 1; omega
        _ ≤ m * 2 ^ n := Nat.mul_le_mul_right _ atLeast) (by omega)
    have value : ((m * 2 ^ n : Nat) : ℚ) * 2 ^ ((j : Int) - 149 - (0 : Nat)) = m * 2 ^ ((n : Int) + (j - 149)) := by
      rw [zpow_add₀ (by norm_num), zpow_natCast, Nat.cast_zero, sub_zero]
      push_cast
      ring
    rw [value] at units
    simpa [whole, Nat.mod_one] using units
  · obtain ⟨n, rfl⟩ : ∃ n : Nat, e = (j : Int) - 149 - n := ⟨((j : Int) - 149 - e).toNat, by omega⟩
    have units := singleBelow_of_units j m n (below.trans_le (Nat.pow_le_pow_right (by decide) (by omega)))
      (or_iff_not_imp_left.mpr fun normal => (Nat.pow_le_pow_right (by decide) (by omega)).trans atLeast) (by omega)
    simpa [whole] using units

theorem isNaN_iff (x : QWord) : isNaN x = true ↔ dblSpecial x ∧ x.extractLsb' 0 52 ≠ 0#52 := by
  have zero : dblFrac x = 0 ↔ x.extractLsb' 0 52 = 0#52 :=
    ⟨fun e => BitVec.eq_of_toNat_eq e, fun e => by rw [dblFrac, e]; rfl⟩
  rw [dblSpecial_iff, ne_eq, ← zero]
  simp [isNaN]

theorem isInf_iff (x : QWord) : isInf x = true ↔ dblSpecial x ∧ x.extractLsb' 0 52 = 0#52 := by
  have zero : dblFrac x = 0 ↔ x.extractLsb' 0 52 = 0#52 :=
    ⟨fun e => BitVec.eq_of_toNat_eq e, fun e => by rw [dblFrac, e]; rfl⟩
  rw [dblSpecial_iff, ← zero]
  simp [isInf]

theorem abs_dblNumber (x : QWord) : |dblNumber x| = magnitude 52 (-1074) (dblBits x) := by
  rw [dblNumber_eq_magnitude, abs_signOf_mul _ _ (magnitude_nonneg ..)]

theorem abs_sglNumber (w : Long) : |sglNumber w| = magnitude 23 (-149) (sglBits w) := by
  rw [sglNumber_eq_magnitude, abs_signOf_mul _ _ (magnitude_nonneg ..)]

/-- A double of a finite single's number and sign has exactly that single below it. -/
theorem singleBelow_of_single {x : QWord} {w : Long} (finite : ¬ sglSpecial w) (number : dblNumber x = sglNumber w) :
    singleBelow x = (sglBits w, true) := by
  obtain ⟨bound, below, next, exact⟩ := singleBelow_spec x
  have mono := magnitude_strictMono 23 (-149)
  rw [← abs_dblNumber, number, abs_sglNumber] at below next exact
  rw [sglSpecial_iff] at finite
  rw [mono.le_iff_le] at below
  rw [mono.injective.eq_iff] at exact
  rw [mono.lt_iff_lt] at next
  have same : (singleBelow x).1 = sglBits w := by
    by_cases room : (singleBelow x).1 + 1 < 0x7F800000
    · have := next room
      omega
    · omega
  exact Prod.ext same (exact.mpr same)

theorem mkSingle_sglBits (w : Long) : mkSingle w.msb (sglBits w) = w :=
  sgl_ext (mkSingle_msb ..) (mkSingle_bits _ _ (w.extractLsb' 0 31).isLt)

/-- The double of a finite single's number and sign is the one its conversion gives. -/
theorem dblOfSingle_eq {x : QWord} {w : Long} (free : QWord) (finite : ¬ sglSpecial w)
    (number : dblNumber x = sglNumber w) (sign : w.msb = x.msb) : dblOfSingle w free = x := by
  obtain ⟨-, same, sameSign⟩ := dblOfSingle_finite w free finite
  have bits : magnitude 52 (-1074) (dblBits (dblOfSingle w free)) = magnitude 52 (-1074) (dblBits x) := by
    rw [← abs_dblNumber, ← abs_dblNumber, same, number]
  exact dbl_ext (sameSign.trans sign) ((magnitude_strictMono ..).injective bits)

/-- A number strictly between two of one sign has its magnitude strictly between theirs. -/
theorem magnitude_between {s r : Bool} {a b c : ℚ} (ha : 0 ≤ a) (hb : 0 ≤ b) (hc : 0 ≤ c)
    (low : signOf s * a < signOf r * c) (high : signOf r * c < signOf s * b) : (a < c ∧ c < b) ∨ (b < c ∧ c < a) := by
  cases s <;> cases r <;> simp only [signOf, if_true, Bool.false_eq_true, if_false] at low high
  · exact .inl ⟨by linarith, by linarith⟩
  · linarith
  · linarith
  · exact .inr ⟨by linarith, by linarith⟩

/-- No finite single lies strictly between a number and a neighbour of it among the finite singles. -/
theorem SingleBelow.none_between {v : ℚ} {mag : Nat} {exact : Bool} (h : SingleBelow v mag exact) {near n : Nat}
    (neighbour : near = mag ∨ near = mag + 1) (finite : n < 0x7F800000) :
    let m := magnitude 23 (-149)
    ¬ ((v < m n ∧ m n < m near) ∨ (m near < m n ∧ m n < v)) := by
  intro m between
  have mono : StrictMono m := magnitude_strictMono 23 (-149)
  have atMost {i : Nat} (lower : m i < v) (iFinite : i < 0x7F800000) : i ≤ mag := by
    by_contra above
    have := h.next (by omega)
    have := mono.monotone (show mag + 1 ≤ i by omega)
    linarith
  have atLeast {i : Nat} (upper : v < m i) : mag < i := mono.lt_iff_lt.mp (h.below.trans_lt upper)
  obtain ⟨lower, upper⟩ | ⟨lower, upper⟩ := between
  · have := mono.lt_iff_lt.mp upper
    have := atLeast lower
    omega
  · have := mono.lt_iff_lt.mp lower
    have := atMost upper finite
    omega

/-- The magnitude bits of the single that rounding picks (rule R326, decision D52). -/
def nearSingle (y free : QWord) : Nat :=
  if (singleBelow y).2 then (singleBelow y).1 else if free.getLsbD 0 then (singleBelow y).1 + 1 else (singleBelow y).1

theorem nearSingle_cases (y free : QWord) :
    nearSingle y free = (singleBelow y).1 ∨ (nearSingle y free = (singleBelow y).1 + 1 ∧ (singleBelow y).2 = false) := by
  unfold nearSingle
  cases (singleBelow y).2 with
  | true => exact .inl rfl
  | false =>
    cases free.getLsbD 0 with
    | true => exact .inr ⟨rfl, rfl⟩
    | false => exact .inl rfl

theorem roundSingle_of_finite {y : QWord} (free : QWord) (h : ¬ dblSpecial y) :
    roundSingle y free = dblOfSingle (mkSingle y.msb (nearSingle y free)) free := by
  have notNaN : ¬ isNaN y = true := fun e => h ((isNaN_iff y).mp e).1
  have notInf : ¬ isInf y = true := fun e => h ((isInf_iff y).mp e).1
  rw [roundSingle, if_neg notNaN, if_neg notInf]
  rfl

/-- A finite single picked by rounding is a neighbour of the double, of its sign (rule R326, decision D52). -/
theorem roundSingle_toFinite (y free : QWord) (h : ¬ dblSpecial y) (finite : nearSingle y free < 0x7F800000) :
    (roundSingle y free).msb = y.msb ∧ ¬ dblSpecial (roundSingle y free) ∧
      (∃ w : Long, ¬ sglSpecial w ∧ dblNumber (roundSingle y free) = sglNumber w) ∧
      ∀ w : Long, ¬ sglSpecial w →
        ¬ (dblNumber y < sglNumber w ∧ sglNumber w < dblNumber (roundSingle y free)) ∧
        ¬ (dblNumber (roundSingle y free) < sglNumber w ∧ sglNumber w < dblNumber y) := by
  rw [roundSingle_of_finite free h]
  have neighbour := (nearSingle_cases y free).imp_right And.left
  generalize nearSingle y free = near at *
  have bits := mkSingle_bits y.msb near (by omega)
  have single : ¬ sglSpecial (mkSingle y.msb near) := by
    rw [sglSpecial_iff, bits]
    omega
  obtain ⟨ordinary, number, sign⟩ := dblOfSingle_finite (mkSingle y.msb near) free single
  rw [mkSingle_msb] at sign
  refine ⟨sign, ordinary, ⟨_, single, number⟩, fun w wFinite => ?_⟩
  have value : sglNumber (mkSingle y.msb near) = signOf y.msb * magnitude 23 (-149) near := by
    rw [sglNumber_eq_magnitude, mkSingle_msb, bits]
  rw [sglSpecial_iff, not_le] at wFinite
  have apart := (singleBelow_spec y).none_between neighbour wFinite
  rw [number, value, dblNumber_eq_magnitude, sglNumber_eq_magnitude w]
  have at0 := magnitude_nonneg
  exact ⟨fun between => apart (magnitude_between (at0 ..) (at0 ..) (at0 ..) between.1 between.2),
    fun between => apart (magnitude_between (at0 ..) (at0 ..) (at0 ..) between.1 between.2).symm⟩

/-- An infinity picked by rounding is of the double's sign, and every single is smaller (rule R326, decision D52). -/
theorem roundSingle_toInfinity (y free : QWord) (h : ¬ dblSpecial y) (infinite : ¬ nearSingle y free < 0x7F800000) :
    (roundSingle y free).msb = y.msb ∧ dblSpecial (roundSingle y free) ∧ (roundSingle y free).extractLsb' 0 52 = 0#52 ∧
      ∀ w : Long, ¬ sglSpecial w → |sglNumber w| < |dblNumber y| := by
  rw [roundSingle_of_finite free h]
  obtain ⟨bound, below, -, exact⟩ := singleBelow_spec y
  obtain near | ⟨near, inexact⟩ := nearSingle_cases y free
  · omega
  rw [show nearSingle y free = 0x7F800000 by omega]
  have bits := mkSingle_bits y.msb 0x7F800000 (by decide)
  have special : sglSpecial (mkSingle y.msb 0x7F800000) := by rw [sglSpecial_iff, bits]
  obtain ⟨isSpecial, frac, sign⟩ := dblOfSingle_special (mkSingle y.msb 0x7F800000) free special
  rw [mkSingle_msb] at sign
  refine ⟨sign, isSpecial, frac.mpr (BitVec.eq_of_toNat_eq ?_), fun w finite => ?_⟩
  · rw [← sglBits_frac, bits]
    rfl
  · rw [sglSpecial_iff] at finite
    rw [inexact] at exact
    rw [abs_sglNumber, abs_dblNumber]
    calc magnitude 23 (-149) (sglBits w)
        ≤ magnitude 23 (-149) (singleBelow y).1 := (magnitude_strictMono ..).monotone (by omega)
      _ < magnitude 52 (-1074) (dblBits y) := lt_of_le_of_ne below fun e => by cases exact.mpr e

/-- The rounding to single precision is one in one direction or the other (rule R326, decision D52). -/
theorem roundedToSingle_roundSingle (y free : QWord) : RoundedToSingle y (roundSingle y free) := by
  refine ⟨fun w finite ordinary number sign => ?exact, fun ordinary => ?finite, fun special zero => ?infinity,
    fun special nonzero => ?nan⟩
  case exact =>
    rw [roundSingle_of_finite free ordinary, nearSingle, singleBelow_of_single finite number, if_pos rfl, ← sign,
      mkSingle_sglBits]
    exact dblOfSingle_eq free finite number sign
  case finite =>
    by_cases finite : nearSingle y free < 0x7F800000
    · obtain ⟨sign, rest⟩ := roundSingle_toFinite y free ordinary finite
      exact ⟨sign, .inl rest⟩
    · obtain ⟨sign, rest⟩ := roundSingle_toInfinity y free ordinary finite
      exact ⟨sign, .inr rest⟩
  case infinity =>
    have notNaN : ¬ isNaN y = true := fun e => ((isNaN_iff y).mp e).2 zero
    rw [roundSingle, if_neg notNaN, if_pos ((isInf_iff y).mpr ⟨special, zero⟩)]
  case nan =>
    rw [roundSingle, if_pos ((isNaN_iff y).mpr ⟨special, nonzero⟩)]
    obtain ⟨-, exp, frac⟩ := mkDbl_fields (dblSign y) 0x7FF (nanFrac 52 free)
    exact ⟨exp, by rw [frac]; exact ofNat_nanFrac_ne_zero 52 (by decide) free⟩

end Sys2Proof.Machine
end

section
/-!
PROOF. The floating-point instructions (44_float.md): FDBcc.L, the loads and stores of a floating-point register, and what
the conversions give (rules R322 to R330).
-/

namespace Sys2Proof.Machine

theorem fpuOn_enabled {s : State} (h : s.pcr.dfp = false) (r : Res State) : fpuOn s r = r := by
  rw [fpuOn, h]
  rfl

/-! ### FDBcc.L -/

/-- The truth values of the predicates by their low four bits, as rule R324 lists them. -/
def predicateTable (f : FpCc) : List Bool :=
  [false, f.z, !(f.nan || f.z || f.n), f.z || !(f.nan || f.n), f.n && !(f.nan || f.z), f.z || (f.n && !f.nan),
   !(f.nan || f.z), !f.nan, f.nan, f.nan || f.z, f.nan || !(f.n || f.z), f.nan || f.z || !f.n,
   f.nan || (f.n && !f.z), f.nan || f.z || f.n, !f.z, true]

theorem predicateTable_get (f : FpCc) (p : BitVec 6) :
    (predicateTable f)[p.toNat % 16]? = some (f.holds (p.extractLsb' 0 4)) := by
  have get (k : Nat) (hk : k < 16) : (predicateTable f)[k]? = some (f.holds (BitVec.ofNat 4 k)) := by
    interval_cases k <;> rfl
  have low : p.extractLsb' 0 4 = BitVec.ofNat 4 (p.toNat % 16) :=
    BitVec.eq_of_toNat_eq (by rw [BitVec.extractLsb'_toNat, BitVec.toNat_ofNat, Nat.shiftRight_zero, Nat.mod_mod])
  rw [low, get _ (Nat.mod_lt _ (by decide))]

/-- Bits 5 and 4 of a predicate by its number. -/
theorem predicate_bits : ∀ p : BitVec 6, (p.getLsbD 5 = true ↔ 32 ≤ p.toNat) ∧
    (p.toNat < 32 → (p.getLsbD 4 = true ↔ 16 ≤ p.toNat)) := by decide

/-- A predicate below 16, or below 32 without a NaN, has a truth value (rule R324). -/
theorem cond_eq_some {f : FpCc} {p : BitVec 6} (h : p.toNat < 16 ∨ (p.toNat < 32 ∧ f.nan = false)) :
    f.cond p = some (f.holds (p.extractLsb' 0 4)) := by
  obtain ⟨bit5, bit4⟩ := predicate_bits p
  refine if_neg fun out => ?_
  rw [Bool.or_eq_true, Bool.and_eq_true, bit5, bit4 (by omega)] at out
  obtain small | ⟨small, none⟩ := h
  · omega
  · rw [none] at out
    obtain large | ⟨-, h⟩ := out
    · omega
    · cases h

/-- Predicates from 32 on, and from 16 on with a NaN, have none (rule R324, decision D53). -/
theorem cond_eq_none {f : FpCc} {p : BitVec 6} (h : 32 ≤ p.toNat ∨ (16 ≤ p.toNat ∧ f.nan = true)) : f.cond p = none := by
  obtain ⟨bit5, bit4⟩ := predicate_bits p
  refine if_pos ?_
  rw [Bool.or_eq_true, Bool.and_eq_true, bit5]
  by_cases large : 32 ≤ p.toNat
  · exact .inl large
  · obtain out | ⟨high, nan⟩ := h
    · exact .inl out
    · exact .inr ⟨(bit4 (by omega)).mpr high, nan⟩

/-- Settles O56. -/
theorem fdbccCountsALongDown : Obligations.FdbccCountsALongDown := by
  unfold Obligations.FdbccCountsALongDown
  intro p dn w s r f table
  have lookup : table[p.toNat % 16]? = some (f.holds (p.extractLsb' 0 4)) := predicateTable_get f p
  rw [lookup]
  refine ⟨fun on _ => ⟨fun defined => ?conditions, fun undefined => ?none⟩, fun cfg z ws => decode_fdbcc cfg dn z p w ws⟩
  all_goals
    have meaning : exec (.fdbccL p dn w) s = _ := fpuOn_enabled on _
    rw [meaning]
  case none => rw [show s.fpcc.cond p = none from cond_eq_none undefined]
  case conditions =>
    have value : s.fpcc.cond p = some (f.holds (p.extractLsb' 0 4)) := cond_eq_some defined
    rw [value]
    refine ⟨fun holds => ?true, fun fails => ?false⟩
    case true => rw [Option.some.inj holds]; rfl
    case false =>
      rw [Option.some.inj fails]
      obtain ⟨counter, upper, sr, frame, pc⟩ := countDown_spec (s.pc + 4) dn w s
      refine ⟨_, rfl, counter, upper, sr, frame, pc.trans ?_⟩
      rw [show s.pc + 4 + 2 = s.pc + 6 from add_ofNat_add s.pc 4 2]

/-! ### What a write of a floating-point register changes -/

theorem FpFrame.trans {r1 r2 : List RegName} {f1 f2 : List Reg3} {a1 a2 : List Addr} {s t u : State}
    (h : FpFrame r1 f1 a1 s t) (k : FpFrame r2 f2 a2 t u) : FpFrame (r1 ++ r2) (f1 ++ f2) (a1 ++ a2) s u where
  reg r hr := by
    rw [List.mem_append, not_or] at hr
    exact (k.reg r hr.2).trans (h.reg r hr.1)
  byte a ha := by
    rw [List.mem_append, not_or] at ha
    exact (k.byte a ha.2).trans (h.byte a ha.1)
  usp := k.usp.trans h.usp
  fpr n hn := by
    rw [List.mem_append, not_or] at hn
    exact (k.fpr n hn.2).trans (h.fpr n hn.1)
  sr := k.sr.trans h.sr
  pcr := k.pcr.trans h.pcr
  counters := k.counters.trans h.counters
  text := k.text.trans h.text
  regions := k.regions.trans h.regions
  cfg := k.cfg.trans h.cfg

theorem Frame.toFp {regs : List RegName} {addrs : List Addr} {s t : State} (h : Frame regs addrs s t) (sr : t.sr = s.sr) :
    FpFrame regs [] addrs s t :=
  ⟨h.reg, h.byte, h.usp, fun n _ => by simp only [h.fpr], sr, h.pcr, h.counters, h.text, h.regions, h.cfg⟩

/-- The condition bits, `pc` and the draws are no part of what `FpFrame` keeps. -/
theorem FpFrame.setFpcc {regs : List RegName} {fps : List Reg3} {addrs : List Addr} {s t : State}
    (h : FpFrame regs fps addrs s t) (f : FpCc) : FpFrame regs fps addrs s (t.setFpcc f) :=
  ⟨h.reg, h.byte, h.usp, h.fpr, h.sr, h.pcr, h.counters, h.text, h.regions, h.cfg⟩

theorem FpFrame.advance {regs : List RegName} {fps : List Reg3} {addrs : List Addr} {s t : State}
    (h : FpFrame regs fps addrs s t) (n : Nat) : FpFrame regs fps addrs s (t.advance n) :=
  ⟨h.reg, h.byte, h.usp, h.fpr, h.sr, h.pcr, h.counters, h.text, h.regions, h.cfg⟩

theorem frame_drawnIf (s : State) (p : Bool) : Frame [] [] s (s.drawnIf p) := by
  cases p
  · exact Frame.refl ..
  · exact frame_drawn s

theorem drawnIf_sr (s : State) (p : Bool) : (s.drawnIf p).sr = s.sr := by cases p <;> rfl

/-- The number of a register of the floating-point numbering (rule R28). -/
theorem fpNumber_toNat (xx : BitVec 2) (fp : Reg3) : (xx ++ fp).toNat = 8 * xx.toNat + fp.toNat := by
  revert xx fp; decide

/-- The bits a register keeps of a value are those above the ones dropped (rule R321). -/
theorem kept_shift (s : State) (x : QWord) : s.kept x >>> s.cfg.fpFraction.dropped = x >>> s.cfg.fpFraction.dropped := by
  have high (n : Nat) (y : BitVec n) (h : n ≤ 64) :
      (x.extractLsb' n (64 - n) ++ y).setWidth 64 >>> n = x >>> n := by
    apply BitVec.eq_of_getLsbD_eq
    intro i hi
    simp only [BitVec.getLsbD_ushiftRight, BitVec.getLsbD_setWidth, BitVec.getLsbD_append, BitVec.getLsbD_extractLsb']
    by_cases inside : n + i < 64
    · simp [inside, show i < 64 - n by omega]
    · simp [inside, BitVec.getLsbD_of_ge x (n + i) (by omega)]
  unfold State.kept
  cases s.cfg.fpFraction with
  | f52 => rfl
  | f44 => exact high 8 _ (by decide)
  | f32 => exact high 20 _ (by decide)

/-- A floating-point register written reads as the value, but for the fraction bits it does not keep (rules R28, R321). -/
theorem fp_setFp_shift (s : State) (k : Reg5) (x : QWord) :
    (s.setFp k x).fp k >>> s.cfg.fpFraction.dropped = x >>> s.cfg.fpFraction.dropped := by
  have value : (s.setFp k x).fp k = s.kept x := by
    unfold State.setFp State.putFp State.fp
    by_cases small : k.toNat < 8
    · simp [small]
    · simp [small]
  rw [value, kept_shift]

theorem frame_afterKept (s : State) : Frame [] [] s s.afterKept := by
  unfold State.afterKept
  cases s.cfg.fpFraction with
  | f52 => exact Frame.refl ..
  | f44 => exact frame_drawn s
  | f32 => exact frame_drawn s

/-- A write of one of `FP0` to `FP7`. -/
theorem fpFrame_setFp_fpr (s : State) (fp : Reg3) (x : QWord) : FpFrame [] [fp] [] s (s.setFp (0#2 ++ fp) x) := by
  have number : (0#2 ++ fp).toNat = fp.toNat := (fpNumber_toNat 0 fp).trans (Nat.zero_add _)
  have small : (0#2 ++ fp).toNat < 8 := by rw [number]; exact fp.isLt
  have value : s.setFp (0#2 ++ fp) x = { s.afterKept with fpr := s.afterKept.fpr.set (0#2 ++ fp).toNat (s.kept x) } :=
    dif_pos small
  have frame := frame_afterKept s
  rw [value]
  refine ⟨frame.reg, frame.byte, frame.usp, fun n hn => ?_, State.afterKept_sr s, frame.pcr, frame.counters, frame.text,
    frame.regions, frame.cfg⟩
  have other : (0#2 ++ fp).toNat ≠ n.toNat := fun e => hn (by
    rw [List.mem_singleton, BitVec.eq_of_toNat_eq (number.symm.trans e)])
  simp [Vector.getElem_set_ne _ _ other]

/-- A write of one of `E0` to `E23`. -/
theorem fpFrame_setFp_data (s : State) (xx : BitVec 2) (h : xx ≠ 0) (fp : Reg3) (x : QWord) :
    FpFrame [.d (xx ++ fp)] [] [] s (s.setFp (xx ++ fp) x) := by
  have nonzero : xx.toNat ≠ 0 := fun e => h (BitVec.eq_of_toNat_eq e)
  have large : ¬ (xx ++ fp).toNat < 8 := by rw [fpNumber_toNat]; omega
  have value : s.setFp (xx ++ fp) x = s.afterKept.setQuad (.d (xx ++ fp)) (s.kept x) := dif_neg large
  rw [value]
  exact ((frame_afterKept s).trans (frame_setQuad ..)).toFp (by simp)

/-! ### The loads -/

theorem fpccFor_fpccOf (x : QWord) : FpccFor (fpccOf x) x := by
  refine ⟨rfl, ?_, ?_, ?_⟩ <;> simp [fpccOf, bne, Bool.beq_eq_decide_eq]

/-- `t` is `s` with the double `x` in the floating-point register `fp` that the field `xx` extends, `pc` past `n` bytes, and
the registers `stepped` as the formed address `l` left them (rules R28, R321, R322). -/
structure FpLoaded (xx : BitVec 2) (fp : Reg3) (x : QWord) (n : Nat) (stepped : List RegName) (l : Located)
    (s t : State) : Prop where
  register : t.fp (xx ++ fp) >>> s.cfg.fpFraction.dropped = x >>> s.cfg.fpFraction.dropped
  fpcc : FpccFor t.fpcc x
  pc : t.pc = s.pc + BitVec.ofNat 32 n
  fpr : xx = 0 → FpFrame stepped [fp] [] s t
  data : xx ≠ 0 → FpFrame (stepped ++ [.d (xx ++ fp)]) [] [] s t
  stepped : xx = 0 → ∀ r ∈ stepped, t.long r = l.st.long r

/-- The conversion of an operand leaves the converted value in its register (rules R321, R325, R326). -/
theorem Formed.fpLoaded {s : State} {stepped : List RegName} {l : Located} (formed : Formed s stepped l) (fmt : FpFmt)
    (rp : RoundPrec) (xx : BitVec 2) (fp : Reg3) (v : QWord) (n : Nat) :
    FpLoaded xx fp (fmoveValue fmt rp v l.st.free) n stepped l s ((loadFp fmt rp (xx ++ fp) v l.st).advance n) := by
  have drawn := frame_drawnIf l.st (fmoveDraws fmt rp v l.st.free)
  have start := (formed.frame.trans drawn).toFp ((drawnIf_sr ..).trans formed.sr)
  refine ⟨?register, fpccFor_fpccOf _, by simp [loadFp, formed.pc], fun zero => ?fpr, fun bank => ?data,
    fun zero r _ => ?stepped⟩
  case register =>
    have shift := fp_setFp_shift (l.st.drawnIf (fmoveDraws fmt rp v l.st.free)) (xx ++ fp) (fmoveValue fmt rp v l.st.free)
    rwa [State.drawnIf_cfg, formed.frame.cfg] at shift
  case fpr =>
    subst zero
    have frame := ((start.trans (fpFrame_setFp_fpr _ fp (fmoveValue fmt rp v l.st.free))).setFpcc
      (fpccOf (fmoveValue fmt rp v l.st.free))).advance n
    rwa [List.append_nil, List.append_nil] at frame
  case data =>
    have frame := ((start.trans (fpFrame_setFp_data _ xx bank fp (fmoveValue fmt rp v l.st.free))).setFpcc
      (fpccOf (fmoveValue fmt rp v l.st.free))).advance n
    rwa [List.append_nil] at frame
  case stepped =>
    subst zero
    have frame := fpFrame_setFp_fpr (l.st.drawnIf (fmoveDraws fmt rp v l.st.free)) fp (fmoveValue fmt rp v l.st.free)
    exact congrArg Reg64.lo ((frame.reg r List.not_mem_nil).trans (drawn.reg r List.not_mem_nil))

/-- FMOVE `<ea>`,FPn completes when its operand may be read (rules R325, R326). -/
theorem fmoveIn_loads (p : Prefix) (fmt : FpFmt) (rp : RoundPrec) (ea : Ea) (fp : Reg3) (s : State)
    (on : s.pcr.dfp = false) :
    let l := locate fmt.size (s.pc + BitVec.ofNat 32 (p.bytes + 4)) p.aa ea s
    Readable (l.loc.addrs fmt.size) s →
    ∃ t free, fmoveIn p fmt rp ea fp s = .next t ∧
      FpLoaded p.bb fp (fmoveValue fmt rp (l.loc.value fmt.size s) free) (p.bytes + 4 + eaBytes fmt.size ea)
        (steppedEa ea) l s t := by
  intro l readable
  have formed : Formed s (steppedEa ea) l := formed_locate ..
  refine ⟨_, l.st.free, ?_, formed.fpLoaded fmt rp p.bb fp (l.loc.value fmt.size s) _⟩
  rw [fmoveIn, fpuOn_enabled on, formed.readLoc readable]
  rfl

/-- FLOADI completes (rule R328). -/
theorem floadi_loads (p : BankPrefix) (fmt : FpFmt) (rp : RoundPrec) (dn fp : Reg3) (s : State) (on : s.pcr.dfp = false) :
    ∃ t free, exec (.floadi p fmt rp dn fp) s = .next t ∧
      FpLoaded p.bb fp (fmoveValue fmt rp (lowBytes fmt.size (s.quad (.d (p.aa ++ dn)))) free) 6 []
        ⟨.reg (.d (p.aa ++ dn)), s⟩ s t :=
  fmoveIn_loads (.ofBank p) fmt rp (.dn dn) fp s on fun _ h => (by cases h)

theorem fmoveValue_of_ne_single {rp : RoundPrec} (h : rp ≠ .single) (fmt : FpFmt) (v free : QWord) :
    fmoveValue fmt rp v free = dblOfOperand fmt v free := by
  cases rp with
  | single => exact absurd rfl h
  | _ => rfl

/-- Settles O57. -/
theorem fmoveLoadsTheConvertedOperand : Obligations.FmoveLoadsTheConvertedOperand := by
  unfold Obligations.FmoveLoadsTheConvertedOperand
  intro fmt rp fp s on notSingle
  refine ⟨?ea, fun p dn _ => ?bundle⟩
  case ea =>
    intro ea l _ readable
    obtain ⟨t, free, run, loaded⟩ := fmoveIn_loads .none fmt rp ea fp s on readable
    rw [fmoveValue_of_ne_single notSingle] at loaded
    exact ⟨t, _, run, converted_dblOfOperand fmt _ free, loaded.register, loaded.fpcc, loaded.pc, loaded.fpr rfl,
      loaded.stepped rfl⟩
  case bundle =>
    obtain ⟨t, free, run, loaded⟩ := floadi_loads p fmt rp dn fp s on
    rw [fmoveValue_of_ne_single notSingle] at loaded
    exact ⟨t, _, run, converted_dblOfOperand fmt _ free, loaded.register, loaded.fpcc, loaded.pc, loaded.fpr, loaded.data⟩

/-- Settles O58: the operand converts as for O57, and `roundSingle` is a rounding of it. -/
theorem fmoveRoundsToSinglePrecision : Obligations.FmoveRoundsToSinglePrecision := by
  unfold Obligations.FmoveRoundsToSinglePrecision
  intro fmt fp s on
  refine ⟨?ea, fun p dn _ => ?bundle⟩
  case ea =>
    intro ea l _ readable
    obtain ⟨t, free, run, loaded⟩ := fmoveIn_loads .none fmt .single ea fp s on readable
    exact ⟨t, _, _, run, converted_dblOfOperand fmt _ free, roundedToSingle_roundSingle _ free, loaded.register, loaded.fpcc,
      loaded.pc, loaded.fpr rfl, loaded.stepped rfl⟩
  case bundle =>
    obtain ⟨t, free, run, loaded⟩ := floadi_loads p fmt .single dn fp s on
    exact ⟨t, _, _, run, converted_dblOfOperand fmt _ free, roundedToSingle_roundSingle _ free, loaded.register, loaded.fpcc,
      loaded.pc, loaded.fpr, loaded.data⟩

end Sys2Proof.Machine
end

section
/-!
PROOF. The stores of a floating-point register: FMOVE FPn, FSTOREI, FMOVERZ and FMOVEURZ (rules R327 to R330).
-/

namespace Sys2Proof.Machine

/-! ### What the conversions write -/

/-- The low bytes of an integer are that integer modulo their range. -/
theorem lowBytes_ofInt (sz : Size) (i : Int) : ((lowBytes sz (BitVec.ofInt 64 i)).toNat : Int) = i % 2 ^ (8 * sz.bytes) := by
  have low (n : Nat) (hn : n ≤ 64) :
      ((((BitVec.ofInt 64 i).extractLsb' 0 n).setWidth 64).toNat : Int) = i % 2 ^ n := by
    have small : ((BitVec.ofInt 64 i).extractLsb' 0 n).toNat < 2 ^ 64 :=
      (BitVec.isLt _).trans_le (Nat.pow_le_pow_right (by decide) hn)
    rw [BitVec.toNat_setWidth, Nat.mod_eq_of_lt small, BitVec.extractLsb'_toNat, Nat.shiftRight_zero, BitVec.toNat_ofInt,
      Int.natCast_mod, Int.toNat_of_nonneg (Int.emod_nonneg _ (by decide))]
    push_cast
    exact Int.emod_emod_of_dvd i (pow_dvd_pow 2 hn)
  cases sz with
  | b => exact low 8 (by decide)
  | w => exact low 16 (by decide)
  | l => exact low 32 (by decide)
  | q => rw [lowBytes, BitVec.toNat_ofInt, Int.toNat_of_nonneg (Int.emod_nonneg _ (by decide))]; rfl

theorem isFinite_of_not_special {x : QWord} (h : ¬ dblSpecial x) : isFinite x = true := by
  rw [dblSpecial_iff] at h
  simp [isFinite, h]

/-- FMOVERZ in its range (rule R329). -/
theorem signedTrunc_eq {sz : Size} {x : QWord} (h : ¬ dblSpecial x) (low : -(2 ^ (8 * sz.bytes - 1)) ≤ towardZero (dblNumber x))
    (high : towardZero (dblNumber x) < 2 ^ (8 * sz.bytes - 1)) : signedTrunc sz x = some (towardZero (dblNumber x)) := by
  rw [towardZero_dblNumber] at *
  simp [signedTrunc, fitsSigned, isFinite_of_not_special h, low, high]

/-- FMOVEURZ in its range (rule R330). -/
theorem unsignedTrunc_eq {sz : Size} {x : QWord} (h : ¬ dblSpecial x) (low : 0 ≤ towardZero (dblNumber x))
    (high : towardZero (dblNumber x) < 2 ^ (8 * sz.bytes)) : unsignedTrunc sz x = some (towardZero (dblNumber x)) := by
  rw [towardZero_dblNumber] at *
  simp [unsignedTrunc, fitsUnsigned, isFinite_of_not_special h, low, high]

/-- FMOVE to an integer of the double's number, in its range (rule R327). -/
theorem intOfDbl_eq {sz : Size} {x : QWord} {k : Int} (h : ¬ dblSpecial x) (number : dblNumber x = (k : ℚ))
    (low : -(2 ^ (8 * sz.bytes - 1)) ≤ k) (high : k < 2 ^ (8 * sz.bytes - 1)) : intOfDbl sz x = some k := by
  have whole : truncDbl x = k := by
    rw [← towardZero_dblNumber, number]
    simp [towardZero]
  simp [intOfDbl, fitsSigned, isFinite_of_not_special h, isIntegral_of_int number, whole, low, high]

/-- FMOVE to an integer writes it where it can (rule R327). -/
theorem intOr_intOfDbl {sz : Size} {x : QWord} (free : QWord) (k : Int) (h : ¬ dblSpecial x) (number : dblNumber x = (k : ℚ))
    (low : -(2 ^ (8 * sz.bytes - 1)) ≤ k) (high : k < 2 ^ (8 * sz.bytes - 1)) :
    ((lowBytes sz (intOr (intOfDbl sz x) free)).toNat : Int) = k % 2 ^ (8 * sz.bytes) := by
  rw [intOfDbl_eq h number low high]
  exact lowBytes_ofInt sz k

theorem zext_part (w : Long) (i n : Nat) (h : i + n ≤ 32) : (zext w).extractLsb' i n = w.extractLsb' i n := by
  apply BitVec.eq_of_getLsbD_eq
  intro k hk
  simp [zext, hk, show i + k < 64 by omega]

theorem getLsbD_zext_msb (w : Long) : (zext w).getLsbD 31 = w.msb := by
  rw [zext, BitVec.getLsbD_setWidth, BitVec.msb_eq_getLsbD_last]
  rfl

/-- FMOVE to a single writes the single of the number and sign, an infinity for an infinity, a NaN for a NaN (rule R327). -/
theorem storedAs_singleOfDbl (x free : QWord) : StoredAs .s x (zext (singleOfDbl x free)) := by
  refine ⟨fun w finite ordinary number sign => ?finite, fun special zero => ?infinity, fun special nonzero => ?nan⟩
  case finite =>
    have notNaN : ¬ isNaN x = true := fun e => ordinary ((isNaN_iff x).mp e).1
    have notInf : ¬ isInf x = true := fun e => ordinary ((isInf_iff x).mp e).1
    rw [singleOfDbl, if_neg notNaN, if_neg notInf, singleBelow_of_single finite number]
    exact congrArg zext ((congrArg (mkSingle · (sglBits w)) sign.symm).trans (mkSingle_sglBits w))
  case infinity =>
    have notNaN : ¬ isNaN x = true := fun e => ((isNaN_iff x).mp e).2 zero
    rw [singleOfDbl, if_neg notNaN, if_pos ((isInf_iff x).mpr ⟨special, zero⟩)]
    refine ⟨?_, ?_⟩
    · rw [zext_part _ 0 31 (by decide)]
      exact BitVec.eq_of_toNat_eq (mkSingle_bits _ _ (by decide))
    · exact (getLsbD_zext_msb _).trans (mkSingle_msb ..)
  case nan =>
    rw [singleOfDbl, if_pos ((isNaN_iff x).mpr ⟨special, nonzero⟩)]
    obtain ⟨fracNonzero, fracBound⟩ := nanFrac_bounds 23 (by decide) free
    have bits := mkSingle_bits (dblSign x) (0x7F800000 + nanFrac 23 free) (by omega)
    rw [zext_part _ 23 8 (by decide), zext_part _ 0 23 (by decide)]
    refine ⟨(sglSpecial_iff _).mpr (by omega), fun none => fracNonzero ?_⟩
    have frac := sglBits_frac (mkSingle (dblSign x) (0x7F800000 + nanFrac 23 free))
    rw [none, bits, BitVec.toNat_zero] at frac
    omega

/-- FMOVE FPn writes what rule R327 says. -/
theorem storedAs_storedValue (fmt : FpFmt) (x free : QWord) : StoredAs fmt x (lowBytes fmt.size (storedValue fmt x free)) := by
  cases fmt with
  | b => exact fun k => intOr_intOfDbl (sz := .b) free k
  | w => exact fun k => intOr_intOfDbl (sz := .w) free k
  | l => exact fun k => intOr_intOfDbl (sz := .l) free k
  | s =>
    rw [FpFmt.size, storedValue, lowBytes_l_zext]
    exact storedAs_singleOfDbl x free
  | d => rfl

/-! ### The stores -/

/-- A draw after an address has been formed leaves it formed. -/
theorem Formed.drawnIf {s : State} {stepped : List RegName} {l : Located} (formed : Formed s stepped l) (b : Bool) :
    Formed s stepped ⟨l.loc, l.st.drawnIf b⟩ := by
  cases b with
  | false => exact formed
  | true =>
    have frame := formed.frame.trans (frame_drawn l.st)
    rw [List.append_nil] at frame
    exact ⟨frame, formed.sr, formed.pc, formed.mem, formed.apart, formed.hi⟩

/-- `t` is `s` with the value `v` in the format `fmt` at the formed location `l`, the condition bits of the double `x`, and
`pc` past `n` bytes (rules R24, R322, R327). -/
structure FpStored (fmt : FpFmt) (x v : QWord) (n : Nat) (stepped : List RegName) (l : Located) (s t : State) : Prop where
  value : l.loc.value fmt.size t = lowBytes fmt.size v
  fpcc : FpccFor t.fpcc x
  pc : t.pc = s.pc + BitVec.ofNat 32 n
  frame : FpFrame (stepped ++ l.loc.regs) [] (l.loc.addrs fmt.size) s t
  above : ∀ r ∈ l.loc.regs, KeepsAbove fmt.size s t r
  stepped : ∀ r ∈ stepped, t.long r = l.st.long r

/-- What a write leaves, with the condition bits set and `pc` stepped. -/
theorem WrittenTo.fpStored {fmt : FpFmt} {l : Located} {stepped : List RegName} {v : QWord} {s t : State} {b : Bool}
    (w : WrittenTo fmt.size ⟨l.loc, l.st.drawnIf b⟩ stepped (lowBytes fmt.size v) s t) (sr : t.sr = s.sr)
    (pc : t.pc = s.pc) (x : QWord) (n : Nat) : FpStored fmt x v n stepped l s ((t.setFpcc (fpccOf x)).advance n) where
  value := (value_congr fmt.size l.loc t _ rfl fun _ _ => rfl).trans w.value
  fpcc := fpccFor_fpccOf x
  pc := by simp [pc]
  frame := ((w.frame.toFp sr).setFpcc _).advance n
  above := w.above
  stepped r hr := (w.stepped r hr).trans (by simp)

/-- FMOVE, FMOVERZ and FMOVEURZ to an `<ea>` complete when it may be written (rules R327 to R330). -/
theorem fmoveOut_stores (value : QWord → QWord → QWord) (draws : QWord → Bool) (fmt : FpFmt) (fp : Reg3) (ea : Ea)
    (s : State) (on : s.pcr.dfp = false) (admitted : eaComplaint .alter fmt.size ea = none) (wf : s.mem.wf = true) :
    let l := locate fmt.size (s.pc + 4) 0 ea s
    Writable (l.loc.addrs fmt.size) s →
    ∃ t free, fmoveOut value draws .none fmt fp ea s = .next t ∧
      FpStored fmt (s.fp (0#2 ++ fp)) (value (s.fp (0#2 ++ fp)) free) (4 + 2 * ea.extWords fmt.size) (steppedEa ea) l s t := by
  intro l writable
  have formed := (formed_locate fmt.size (s.pc + 4) 0 ea s).drawnIf (draws (s.fp (0#2 ++ fp)))
  obtain ⟨t, run, written, sr, pc⟩ := formed.writeLoc fmt.size (value (s.fp (0#2 ++ fp)) l.st.free) wf
    (loc_ne_imm_of_alter (allows_of_eaComplaint admitted) fmt.size (s.pc + 4) 0 s) writable
  refine ⟨_, l.st.free, (fpuOn_enabled on _).trans ?_, written.fpStored (l := l) sr pc (s.fp (0#2 ++ fp)) _⟩
  exact congrArg (fun r => finish (4 + 2 * ea.extWords fmt.size)
    (andThen r fun t => .next (t.setFpcc (fpccOf (s.fp (0#2 ++ fp)))))) run

/-- To a data register in a bundle they complete always (rules R328 to R330). -/
theorem fmoveOut_dn (value : QWord → QWord → QWord) (draws : QWord → Bool) (p : BankPrefix) (fmt : FpFmt) (fp dn : Reg3)
    (s : State) (on : s.pcr.dfp = false) :
    ∃ t free, fmoveOut value draws (.ofBank p) fmt fp (.dn dn) s = .next t ∧
      FpStored fmt (s.fp (p.aa ++ fp)) (value (s.fp (p.aa ++ fp)) free) 6 [] ⟨.reg (.d (p.bb ++ dn)), s⟩ s t := by
  have drawn := frame_drawnIf s (draws (s.fp (p.aa ++ fp)))
  have written : WrittenTo fmt.size ⟨.reg (.d (p.bb ++ dn)), s.drawnIf (draws (s.fp (p.aa ++ fp)))⟩ []
      (lowBytes fmt.size (value (s.fp (p.aa ++ fp)) s.free)) s
      ((s.drawnIf (draws (s.fp (p.aa ++ fp)))).setPart fmt.size (.d (p.bb ++ dn)) (value (s.fp (p.aa ++ fp)) s.free)) := by
    refine ⟨lowBytes_setPart .., drawn.trans (frame_setPart ..), fun _ h => (by cases h), fun r hr => ?_⟩
    rw [Loc.regs, List.mem_singleton] at hr
    subst hr
    exact KeepsAbove.of_same (setPart_keepsAbove _ _ _ _) (drawn.reg _ List.not_mem_nil) drawn.cfg
  exact ⟨_, s.free, fpuOn_enabled on _, written.fpStored (l := ⟨_, s⟩) (by simp) (by simp) (s.fp (p.aa ++ fp)) 6⟩

/-- Settles O59. -/
theorem fmoveStoresTheConvertedRegister : Obligations.FmoveStoresTheConvertedRegister := by
  unfold Obligations.FmoveStoresTheConvertedRegister
  intro fmt fp s on
  refine ⟨?ea, ?bundle⟩
  case ea =>
    intro ea l x admitted wf writable
    obtain ⟨t, free, run, stored⟩ := fmoveOut_stores (storedValue fmt) (storeDraws fmt) fmt fp ea s on
      ((wellFormed_iff ..).mp admitted) wf writable
    exact ⟨t, run, by rw [stored.value]; exact storedAs_storedValue fmt x free, stored.fpcc, stored.pc, stored.frame,
      stored.above, stored.stepped⟩
  case bundle =>
    intro p dn x _
    obtain ⟨t, free, run, stored⟩ := fmoveOut_dn (storedValue fmt) (storeDraws fmt) p fmt fp dn s on
    have value : lowBytes fmt.size (t.quad (.d (p.bb ++ dn))) = _ := stored.value
    exact ⟨t, run, by rw [value]; exact storedAs_storedValue fmt x free, stored.fpcc, stored.pc, stored.frame,
      stored.above _ (List.mem_singleton_self _)⟩

/-- What FMOVERZ and FMOVEURZ write is the number truncated toward zero, in the range where `trunc` gives it. -/
theorem FpStored.value_truncated {trunc : Size → QWord → Option Int} {fmt : FpFmt} {x free : QWord} {n : Nat}
    {stepped : List RegName} {l : Located} {s t : State}
    (stored : FpStored fmt x (truncated trunc fmt x free) n stepped l s t)
    (h : trunc fmt.size x = some (towardZero (dblNumber x))) :
    ((l.loc.value fmt.size t).toNat : Int) = towardZero (dblNumber x) % 2 ^ (8 * fmt.size.bytes) := by
  rw [stored.value, truncated, h]
  exact lowBytes_ofInt ..

/-- Settles O60. -/
theorem fmoverzTruncatesTowardZero : Obligations.FmoverzTruncatesTowardZero := by
  unfold Obligations.FmoverzTruncatesTowardZero
  intro fmt fp s on n truncated
  refine ⟨?ea, ?bundle⟩
  case ea =>
    intro ea l x
    simp only [List.forall_mem_cons]
    refine ⟨fun admitted wf writable => ?signed, fun admitted wf writable => ?unsigned, fun _ h => (by cases h)⟩
    all_goals rw [wellFormed_iff, Instr.complaint, firstComplaint_eq_none] at admitted
    case signed =>
      obtain ⟨t, free, run, stored⟩ := fmoveOut_stores (Machine.truncated signedTrunc fmt) (noInteger signedTrunc fmt) fmt fp ea
        s on admitted.2 wf writable
      exact ⟨t, run, fun ordinary low high => stored.value_truncated (signedTrunc_eq ordinary low high),
        stored.fpcc, stored.pc, stored.frame, stored.above, stored.stepped⟩
    case unsigned =>
      obtain ⟨t, free, run, stored⟩ := fmoveOut_stores (Machine.truncated unsignedTrunc fmt) (noInteger unsignedTrunc fmt) fmt fp
        ea s on admitted.2 wf writable
      exact ⟨t, run, fun ordinary low high => stored.value_truncated (unsignedTrunc_eq ordinary low high),
        stored.fpcc, stored.pc, stored.frame, stored.above, stored.stepped⟩
  case bundle =>
    intro p dn x
    simp only [List.forall_mem_cons]
    refine ⟨fun admitted => ?signed, fun admitted => ?unsigned, fun _ h => (by cases h)⟩
    case signed =>
      obtain ⟨t, free, run, stored⟩ :=
        fmoveOut_dn (Machine.truncated signedTrunc fmt) (noInteger signedTrunc fmt) p fmt fp dn s on
      exact ⟨t, (exec_bank_admitted admitted).trans run,
        fun ordinary low high => stored.value_truncated (signedTrunc_eq ordinary low high), stored.fpcc, stored.pc,
        stored.frame, stored.above _ (List.mem_singleton_self _)⟩
    case unsigned =>
      obtain ⟨t, free, run, stored⟩ :=
        fmoveOut_dn (Machine.truncated unsignedTrunc fmt) (noInteger unsignedTrunc fmt) p fmt fp dn s on
      exact ⟨t, (exec_bank_admitted admitted).trans run,
        fun ordinary low high => stored.value_truncated (unsignedTrunc_eq ordinary low high), stored.fpcc,
        stored.pc, stored.frame, stored.above _ (List.mem_singleton_self _)⟩

end Sys2Proof.Machine
end
